-- ==== Sys2Proof/Word.lean ====
section
/-! DEFINITION. The word types of the block: what the spec adds, shifts or masks is a bit vector of its stated width. -/

namespace Sys2Proof

/-- A channel byte, a buffer byte, a factor (00_scope.md R16). -/
abbrev Byte := BitVec 8
/-- A command word (30_encoding.md R80). -/
abbrev CmdWord := BitVec 64
/-- A packed colour and the response data (R16, 10_state.md R39). -/
abbrev Packed := BitVec 32
/-- A pixel index or an LED count, `IDX_W = 16` (00_scope.md R9). -/
abbrev Idx := BitVec 16
/-- The port register and its masks, `PORT_W = 8` (R9). -/
abbrev PortWord := BitVec 8
/-- A microsecond time value, `TIME_W = 32` (R9). -/
abbrev Time := BitVec 32

end Sys2Proof
end

