-- ==== Sys2Proof/Syntax.lean ====
section
/-! DEFINITION. The commands of the block: one constructor per row of spec/opcode_table.json (30_encoding.md R83). -/

namespace Sys2Proof

/-- The host commands (00_scope.md R2, R17; 30_encoding.md R83, R84) and the six reserved opcodes (R85). Every operand is an unsigned
field of the width R82 gives it. -/
inductive Instr where
  /-- OP 0x1, R181 -/
  | construct (n : Idx) (pinid : Byte)
  /-- OP 0x2, R183 -/
  | destroy
  /-- OP 0x3, BEGIN, R185 -/
  | beginStrip
  /-- OP 0x4, SHOW, R187 -/
  | showFrame
  /-- OP 0x5, R104 -/
  | setpixRgb (idx : Idx) (r g b : Byte)
  /-- OP 0x6, R105 -/
  | setpixPacked (idx : Idx) (packed : Packed)
  /-- OP 0x7, R106 -/
  | getpix (idx : Idx)
  /-- OP 0x8, R112 -/
  | setbright (level : Byte)
  /-- OP 0x9, R116 -/
  | numpix
  /-- OP 0xA, R118 -/
  | color (r g b : Byte)
  /-- OP 0x0, R85 -/
  | reserved0x0
  /-- OP 0xB, R85 -/
  | reserved0xB
  /-- OP 0xC, R85 -/
  | reserved0xC
  /-- OP 0xD, R85 -/
  | reserved0xD
  /-- OP 0xE, R85 -/
  | reserved0xE
  /-- OP 0xF, R85 -/
  | reserved0xF
  deriving DecidableEq, Repr

end Sys2Proof
end

