-- ==== Sys2Proof/WellFormed.lean ====
section
/-! DEFINITION. Well-formedness. A term of `Instr` is well formed by its type: every operand has exactly its field's width (R82), and
no operand value is refused by the encoding (R87's `pinid` is encodable and answered ILLEGAL when it runs). What can be ill formed is
a line of the textual syntax (30_encoding.md R88, R89), whose operands are unbounded numbers: "An operand wider than its field is an
assembler error, not a truncation." -/

namespace Sys2Proof

/-- A command line of R88, or a pseudo-instruction of R89, with its operands as written. -/
inductive SourceLine where
  | construct (n pinid : Nat)
  | destroy
  | beginStrip
  | showFrame
  | setpixRgb (idx r g b : Nat)
  | setpixPacked (idx packed : Nat)
  | getpix (idx : Nat)
  | setbright (level : Nat)
  | numpix
  | color (r g b : Nat)
  /-- `CLEARPIX idx` -/
  | clearpix (idx : Nat)
  /-- `NOSCALE` -/
  | noscale
  /-- `SETPIX idx, 0xRRGGBB` -/
  | setpix (idx rgb : Nat)
  /-- `INIT n, pinid` -/
  | init (n pinid : Nat)
  deriving DecidableEq, Repr

/-- An operand fits a field of `w` bits. -/
def fits (w v : Nat) : Bool := decide (v < 2 ^ w)

/-- The operand ranges of R88, and of R89, which gives the operands of CLEARPIX and INIT the fields of the commands they expand to. That
the colour of SETPIX, which R89 writes `0xRRGGBB`, has 24 bits and no more is the model's choice (log 14, DESIGN CHOICE, safe). -/
def SourceLine.wellFormed : SourceLine → Bool
  | .construct n pinid => fits 16 n && fits 8 pinid
  | .destroy => true
  | .beginStrip => true
  | .showFrame => true
  | .setpixRgb idx r g b => fits 16 idx && fits 8 r && fits 8 g && fits 8 b
  | .setpixPacked idx packed => fits 16 idx && fits 32 packed
  | .getpix idx => fits 16 idx
  | .setbright level => fits 8 level
  | .numpix => true
  | .color r g b => fits 8 r && fits 8 g && fits 8 b
  | .clearpix idx => fits 16 idx
  | .noscale => true
  | .setpix idx rgb => fits 16 idx && fits 24 rgb
  | .init n pinid => fits 16 n && fits 8 pinid

end Sys2Proof
end

