-- ==== Sys2Proof/Decode.lean ====
section
/-! DEFINITION. Decoding a command word (30_encoding.md R80 to R86), encoding a command (R88), and assembling source lines (R88, R89). -/

namespace Sys2Proof

/-! ### The fields of R80 -/

/-- `OP`, bits 63:60. -/
def fieldOp (w : CmdWord) : BitVec 4 := w.extractLsb' 60 4
/-- `IDX`, bits 47:32. -/
def fieldIdx (w : CmdWord) : Idx := w.extractLsb' 32 16
/-- `DATA`, bits 31:0. -/
def fieldData (w : CmdWord) : Packed := w.extractLsb' 0 32
/-- `R`, bits 23:16. -/
def fieldR (w : CmdWord) : Byte := w.extractLsb' 16 8
/-- `G`, bits 15:8. -/
def fieldG (w : CmdWord) : Byte := w.extractLsb' 8 8
/-- `B`, bits 7:0; also `LEVEL` and `PINID`. -/
def fieldB (w : CmdWord) : Byte := w.extractLsb' 0 8

/-- `decode` of R84: total on every 64-bit word; a reserved opcode decodes to the command that is answered ILLEGAL (R85). -/
def decode (w : CmdWord) : Instr :=
  match (fieldOp w).toNat with
  | 0x1 => .construct (fieldIdx w) (fieldB w)
  | 0x2 => .destroy
  | 0x3 => .beginStrip
  | 0x4 => .showFrame
  | 0x5 => .setpixRgb (fieldIdx w) (fieldR w) (fieldG w) (fieldB w)
  | 0x6 => .setpixPacked (fieldIdx w) (fieldData w)
  | 0x7 => .getpix (fieldIdx w)
  | 0x8 => .setbright (fieldB w)
  | 0x9 => .numpix
  | 0xA => .color (fieldR w) (fieldG w) (fieldB w)
  | 0x0 => .reserved0x0
  | 0xB => .reserved0xB
  | 0xC => .reserved0xC
  | 0xD => .reserved0xD
  | 0xE => .reserved0xE
  | _ => .reserved0xF

/-- The command word whose bits, numbered as spec/opcode_table.json numbers them, are the low `nbits` bits of `w`; every bit above is 0. -/
def tableWord (nbits w : Nat) : CmdWord := BitVec.ofNat 64 (w % 2 ^ nbits)

/-- What the decoder reads from such a word. The block has one command length, 64 bits (R81): a longer word is refused (log 11,
DESIGN CHOICE, safe). -/
def decodeTableWord (nbits w : Nat) : Option Instr :=
  if nbits ≤ 64 then some (decode (tableWord nbits w)) else none

/-! ### Encoding -/

/-- The word with the given `OP`, `IDX` and `DATA`, `RSV` zero: `(OP, 12'b0, IDX, DATA)` of R88. -/
def cmdWord (op : BitVec 4) (idx : Idx) (data : Packed) : CmdWord :=
  op ++ (0 : BitVec 12) ++ idx ++ data

/-- `DATA` with its fields `D3` zero, `R`, `G`, `B` (R80). -/
def dataRgb (r g b : Byte) : Packed := (0 : BitVec 8) ++ r ++ g ++ b

/-- The encoding of a command, every ignored field zero (R83, R88). -/
def encode : Instr → CmdWord
  | .construct n pinid => cmdWord 0x1 n (dataRgb 0 0 pinid)
  | .destroy => cmdWord 0x2 0 0
  | .beginStrip => cmdWord 0x3 0 0
  | .showFrame => cmdWord 0x4 0 0
  | .setpixRgb idx r g b => cmdWord 0x5 idx (dataRgb r g b)
  | .setpixPacked idx packed => cmdWord 0x6 idx packed
  | .getpix idx => cmdWord 0x7 idx 0
  | .setbright level => cmdWord 0x8 0 (dataRgb 0 0 level)
  | .numpix => cmdWord 0x9 0 0
  | .color r g b => cmdWord 0xA 0 (dataRgb r g b)
  | .reserved0x0 => cmdWord 0x0 0 0
  | .reserved0xB => cmdWord 0xB 0 0
  | .reserved0xC => cmdWord 0xC 0 0
  | .reserved0xD => cmdWord 0xD 0 0
  | .reserved0xE => cmdWord 0xE 0 0
  | .reserved0xF => cmdWord 0xF 0 0

/-- The bits of the word outside a command's operands: `RSV` and every field its row of R83 does not list (R86). Bits 31:24 of
SETPIX_PACKED, which R86 ignores too, are part of its operand `packed` (R84) and are not among them. -/
def ignoredMask : Instr → CmdWord
  | .construct _ _ => 0x0FFF0000FFFFFF00
  | .destroy => 0x0FFFFFFFFFFFFFFF
  | .beginStrip => 0x0FFFFFFFFFFFFFFF
  | .showFrame => 0x0FFFFFFFFFFFFFFF
  | .setpixRgb _ _ _ _ => 0x0FFF0000FF000000
  | .setpixPacked _ _ => 0x0FFF000000000000
  | .getpix _ => 0x0FFF0000FFFFFFFF
  | .setbright _ => 0x0FFFFFFFFFFFFF00
  | .numpix => 0x0FFFFFFFFFFFFFFF
  | .color _ _ _ => 0x0FFFFFFFFF000000
  | .reserved0x0 => 0x0FFFFFFFFFFFFFFF
  | .reserved0xB => 0x0FFFFFFFFFFFFFFF
  | .reserved0xC => 0x0FFFFFFFFFFFFFFF
  | .reserved0xD => 0x0FFFFFFFFFFFFFFF
  | .reserved0xE => 0x0FFFFFFFFFFFFFFF
  | .reserved0xF => 0x0FFFFFFFFFFFFFFF

/-! ### Source lines -/

/-- The commands a line stands for, its operands taken at their field's width; R89 for the pseudo-instructions. -/
def SourceLine.expand : SourceLine → List Instr
  | .construct n pinid => [.construct (.ofNat 16 n) (.ofNat 8 pinid)]
  | .destroy => [.destroy]
  | .beginStrip => [.beginStrip]
  | .showFrame => [.showFrame]
  | .setpixRgb idx r g b => [.setpixRgb (.ofNat 16 idx) (.ofNat 8 r) (.ofNat 8 g) (.ofNat 8 b)]
  | .setpixPacked idx packed => [.setpixPacked (.ofNat 16 idx) (.ofNat 32 packed)]
  | .getpix idx => [.getpix (.ofNat 16 idx)]
  | .setbright level => [.setbright (.ofNat 8 level)]
  | .numpix => [.numpix]
  | .color r g b => [.color (.ofNat 8 r) (.ofNat 8 g) (.ofNat 8 b)]
  | .clearpix idx => [.setpixRgb (.ofNat 16 idx) 0 0 0]
  | .noscale => [.setbright 255]
  | .setpix idx rgb => [.setpixPacked (.ofNat 16 idx) (.ofNat 32 rgb)]
  | .init n pinid => [.construct (.ofNat 16 n) (.ofNat 8 pinid), .beginStrip]

/-- The words of a line, or none: an operand wider than its field is an error (R88). -/
def assemble (l : SourceLine) : Option (List CmdWord) :=
  if l.wellFormed then some (l.expand.map encode) else none

/-! ### The text of a line (R88); what R88 leaves open of it is log 14, DESIGN CHOICE -/

/-- The value of a digit in base 16. -/
def digitValue (c : Char) : Option Nat :=
  if '0' ≤ c ∧ c ≤ '9' then some (c.toNat - '0'.toNat)
  else if 'a' ≤ c ∧ c ≤ 'f' then some (c.toNat - 'a'.toNat + 10)
  else if 'A' ≤ c ∧ c ≤ 'F' then some (c.toNat - 'A'.toNat + 10)
  else none

/-- The digits of a number in a base, `_` being a separator without meaning (00_scope.md R11). That `_` may also stand twice in a row or end
the number (`5__6`, `5_`) is the model's choice (log 14, DESIGN CHOICE, safe). -/
def parseDigits (base : Nat) : List Char → Nat → Option Nat
  | [], acc => some acc
  | '_' :: cs, acc => parseDigits base cs acc
  | c :: cs, acc =>
    match digitValue c with
    | some d => if d < base then parseDigits base cs (acc * base + d) else none
    | none => none

/-- A decimal or `0x` hexadecimal unsigned integer, with at least one digit; a `_` may not come first (log 14, DESIGN CHOICE, safe). -/
def parseNat : List Char → Option Nat
  | '0' :: 'x' :: c :: cs => if c = '_' then none else parseDigits 16 (c :: cs) 0
  | c :: cs => if c = '_' then none else parseDigits 10 (c :: cs) 0
  | [] => none

/-- A line without its comment: "Comments begin with `;`." -/
def dropComment : List Char → List Char
  | [] => []
  | ';' :: _ => []
  | c :: cs => c :: dropComment cs

/-- Blanks between the parts of a line: the space and the tab. R88 does not say which characters are blanks (log 14, DESIGN CHOICE,
safe). -/
def isBlank (c : Char) : Bool := c == ' ' || c == '\t'

/-- The characters that end a line, none of which a line holds: "one command per line" (R88). Which characters these are, the rule does
not say (log 14, DESIGN CHOICE, safe). -/
def isLineBreak (c : Char) : Bool := c == '\n' || c == '\r'

/-- The text without the blanks at its two ends. -/
def trimBlanks (cs : List Char) : List Char :=
  ((cs.dropWhile isBlank).reverse.dropWhile isBlank).reverse

/-- The pieces between commas. -/
def splitCommas : List Char → List (List Char)
  | [] => [[]]
  | ',' :: cs => [] :: splitCommas cs
  | c :: cs =>
    match splitCommas cs with
    | [] => [[c]]
    | p :: ps => (c :: p) :: ps

/-- Every piece as a number, or none. -/
def parseOperands : List (List Char) → Option (List Nat)
  | [] => some []
  | p :: ps =>
    match parseNat (trimBlanks p), parseOperands ps with
    | some n, some ns => some (n :: ns)
    | _, _ => none

/-- The line of a mnemonic and its operands (R88, R89). -/
def lineOf (mnemonic : List Char) (ops : List Nat) : Option SourceLine :=
  if mnemonic = ['C', 'O', 'N', 'S', 'T', 'R', 'U', 'C', 'T'] then
    match ops with | [n, p] => some (.construct n p) | _ => none
  else if mnemonic = ['D', 'E', 'S', 'T', 'R', 'O', 'Y'] then
    match ops with | [] => some .destroy | _ => none
  else if mnemonic = ['B', 'E', 'G', 'I', 'N'] then
    match ops with | [] => some .beginStrip | _ => none
  else if mnemonic = ['S', 'H', 'O', 'W'] then
    match ops with | [] => some .showFrame | _ => none
  else if mnemonic = ['S', 'E', 'T', 'P', 'I', 'X', '_', 'R', 'G', 'B'] then
    match ops with | [i, r, g, b] => some (.setpixRgb i r g b) | _ => none
  else if mnemonic = ['S', 'E', 'T', 'P', 'I', 'X', '_', 'P', 'A', 'C', 'K', 'E', 'D'] then
    match ops with | [i, p] => some (.setpixPacked i p) | _ => none
  else if mnemonic = ['G', 'E', 'T', 'P', 'I', 'X'] then
    match ops with | [i] => some (.getpix i) | _ => none
  else if mnemonic = ['S', 'E', 'T', 'B', 'R', 'I', 'G', 'H', 'T'] then
    match ops with | [l] => some (.setbright l) | _ => none
  else if mnemonic = ['N', 'U', 'M', 'P', 'I', 'X'] then
    match ops with | [] => some .numpix | _ => none
  else if mnemonic = ['C', 'O', 'L', 'O', 'R'] then
    match ops with | [r, g, b] => some (.color r g b) | _ => none
  else if mnemonic = ['C', 'L', 'E', 'A', 'R', 'P', 'I', 'X'] then
    match ops with | [i] => some (.clearpix i) | _ => none
  else if mnemonic = ['N', 'O', 'S', 'C', 'A', 'L', 'E'] then
    match ops with | [] => some .noscale | _ => none
  else if mnemonic = ['S', 'E', 'T', 'P', 'I', 'X'] then
    match ops with | [i, c] => some (.setpix i c) | _ => none
  else if mnemonic = ['I', 'N', 'I', 'T'] then
    match ops with | [n, p] => some (.init n p) | _ => none
  else none

/-- A line `MNEMONIC operand, operand, ...` with an optional comment, without its line break; none for text that is no command line. -/
def parseLine (text : List Char) : Option SourceLine :=
  if text.any isLineBreak then none
  else
    let body := trimBlanks (dropComment text)
    let mnemonic := body.takeWhile (fun c => !isBlank c)
    let rest := trimBlanks (body.dropWhile (fun c => !isBlank c))
    if rest = [] then lineOf mnemonic []
    else
      match parseOperands (splitCommas rest) with
      | some ops => lineOf mnemonic ops
      | none => none

/-- The words of a line of text, or none where it is no well-formed command line (R88, R89). -/
def assembleText (text : List Char) : Option (List CmdWord) :=
  match parseLine text with
  | some l => assemble l
  | none => none

end Sys2Proof
end

