-- ==== Sys2Proof/Config.lean ====
section
/-! DEFINITION. The block's parameters (00_scope.md R9) and the values the spec leaves free. -/

namespace Sys2Proof

/-- The OPEN parameters of 00_scope.md R9 and the width `CNT_W`. The decided widths (`TIME_W`, `PORT_W`, `IDX_W`) are the widths of
the types in Word.lean. -/
structure Params where
  /-- `T0H`, high cycles of a 0 bit -/
  t0h : Nat
  /-- `T1H`, high cycles of a 1 bit -/
  t1h : Nat
  /-- `TBIT`, the bit period in cycles -/
  tbit : Nat
  /-- `T_BYTE_GAP`, extra low cycles between two bytes of a frame -/
  tByteGap : Nat
  /-- `LATCH_US`, the minimum idle time in microseconds -/
  latchUs : Nat
  /-- `BUF_CAP`, the buffer capacity in bytes -/
  bufCap : Nat
  /-- `CNT_W`, the width of the phase counter -/
  cntW : Nat
  deriving DecidableEq, Repr

/-- The constraints of R9's table. -/
abbrev Params.Valid (p : Params) : Prop :=
  1 ≤ p.t0h ∧ p.t0h < p.t1h ∧ p.t1h < p.tbit ∧
  1 ≤ p.latchUs ∧ p.latchUs < 2 ^ 32 ∧
  p.bufCap ≤ 3 * (2 ^ 16 - 1) ∧
  max p.tbit p.tByteGap ≤ 2 ^ p.cntW

/-- The REF column of R9: a configuration for the vectors of 95_test_vectors.md and nothing else. -/
def Params.ref : Params :=
  { t0h := 2, t1h := 4, tbit := 6, tByteGap := 0, latchUs := 50, bufCap := 48, cntW := 8 }

/-- The smallest parameters R9 allows. -/
def Params.least : Params :=
  { t0h := 1, t1h := 2, tbit := 3, tByteGap := 0, latchUs := 1, bufCap := 0, cntW := 2 }

namespace Config

/-- `PORT_W` (R9). -/
def portW : Nat := 8

/-! The OPEN parameters: no source gives a value (92_eei_decisions.md D2, D3, D4, D7, D9); log 3, DESIGN CHOICE, safe. -/

opaque t0h : Nat
opaque t1h : Nat
opaque tbit : Nat
opaque tByteGap : Nat
opaque latchUs : Nat
opaque bufCap : Nat
opaque cntW : Nat

/-- The open values as one record. -/
def openParams : Params :=
  { t0h := t0h, t1h := t1h, tbit := tbit, tByteGap := tByteGap, latchUs := latchUs, bufCap := bufCap, cntW := cntW }

/-- The parameters of the block after reset: any values that meet R9's constraints and no others (log 3). -/
def params : Params := if openParams.Valid then openParams else Params.least

/-! What the input pins carry in a cycle no list of the state describes: the free draw number `k` of each pin
(10_state.md R36, R37; 92_eei_decisions.md D7, D27; 70_reset_and_hazards.md R241); log 1, DESIGN CHOICE, safe. -/

opaque freeRst : Nat → Bool
opaque freeCmdValid : Nat → Bool
opaque freeCmdWord : Nat → CmdWord
opaque freeNowUs : Nat → Time
opaque freeAllocGrant : Nat → Bool
opaque freeExtWrEn : Nat → Bool
opaque freeExtWrMask : Nat → PortWord
opaque freeExtWrVal : Nat → PortWord

end Config
end Sys2Proof
end

