-- ==== Sys2Proof/Machine/State.lean ====
section
/-! DEFINITION. The state of the block (10_state.md), its reset value (R42, R240), and the reasons a step can stop. -/

namespace Sys2Proof.Machine

/-- The pixel buffer's bytes (20_memory.md R60): addresses strictly rising, no entry 0, which is what an unlisted address reads as. -/
abbrev Memory := List Host.Cell

/-- The direction of the output pin (R30). -/
inductive Dir where
  /-- 0, the neutral state: the line is not driven -/
  | input
  /-- 1, the block drives the line -/
  | output
  deriving DecidableEq, Repr

/-- The sequencer state `st` (R31, 00_scope.md R18). -/
inductive SeqState where
  | idle
  | wait
  | high
  | low
  | gap
  | done
  deriving DecidableEq, Repr

/-- The response codes (60_exceptions.md R210). -/
inductive RspCode where
  /-- 0 -/
  | ok
  /-- 1 -/
  | illegal
  /-- 2 -/
  | noStrip
  /-- 3 -/
  | already
  deriving DecidableEq, Repr

/-- The input pins in one cycle (R33, R36, R37, R38; 70_reset_and_hazards.md R240). -/
structure Inputs where
  rst : Bool
  cmdValid : Bool
  cmdWord : CmdWord
  nowUs : Time
  allocGrant : Bool
  extWrEn : Bool
  extWrMask : PortWord
  extWrVal : PortWord
  deriving DecidableEq, Repr

/-- Input pins that ask for nothing. -/
def Inputs.quiet : Inputs :=
  { rst := false, cmdValid := false, cmdWord := 0, nowUs := 0, allocGrant := false,
    extWrEn := false, extWrMask := 0, extWrVal := 0 }

/-- The state in one cycle: the spec's registers under their own names, then the current cycle's input pins, then the model's own
fields `future`, `draws` and `cfg` (log 1, log 3). -/
structure State where
  /-- R23 -/
  alive : Bool
  /-- R24 -/
  numLeds : Idx
  /-- R25 -/
  pin : BitVec 3
  /-- R26 -/
  bufOk : Bool
  /-- R27 -/
  bright : Byte
  /-- R28 -/
  lastEnd : Time
  /-- R29 -/
  lastValid : Bool
  /-- R30 -/
  dir : Dir
  /-- R31 -/
  st : SeqState
  /-- R32 -/
  byteIdx : BitVec 18
  /-- R32 -/
  bitIdx : BitVec 3
  /-- R32 -/
  curByte : Byte
  /-- R32: `CNT_W` bits; no rule makes it wrap (log 6, DEDUCED, safe) -/
  cnt : Nat
  /-- R32, 41_transmitter.md R146 -/
  snapHi : PortWord
  /-- R32, 41_transmitter.md R146 -/
  snapLo : PortWord
  /-- R33 -/
  port : PortWord
  /-- R39 -/
  rspValid : Bool
  /-- R39 -/
  rspData : Packed
  /-- R39 -/
  rspCode : RspCode
  /-- R41 -/
  buf : Memory
  /-- the input pins of this cycle -/
  pins : Inputs
  /-- the input pins of the cycles to come, the next cycle's first -/
  future : List Inputs
  /-- the number of the next free draw of input pins -/
  draws : Nat
  /-- the block's parameters (00_scope.md R9); no step changes them -/
  cfg : Params
  deriving DecidableEq, Repr

/-- Why a step stops. The spec gives the block no fault (R215); this one stands for a precondition. -/
inductive Fault where
  /-- Raised by the pixel-buffer primitives outside the precondition of 20_memory.md R60 (no strip, no buffer, or `a >= NB`). Safe: no
  rule calls them so, and no state that meets the invariant of Safety.lean raises it (log 5, DESIGN CHOICE). -/
  | bufferAddressOutside
  deriving DecidableEq, Repr

/-- Why a command has no meaning. -/
inductive Refusal where
  /-- Raised by `exec` alone, for a command without a meaning yet; no arm does so now. Safe. -/
  | notModelled (mnemonic : String)
  deriving DecidableEq, Repr

/-- The outcome of one cycle or one command. -/
abbrev Result := Host.Outcome State Fault Refusal

/-- `ResetState` (R42, R240). The pins, `future` and `draws` are the model's own (log 2, DESIGN CHOICE, unsafe); the buffer's contents are
unspecified and unreachable (log 4, DESIGN CHOICE, unsafe). -/
def State.reset : State :=
  { alive := false, numLeds := 0, pin := 0, bufOk := false, bright := 0, lastEnd := 0, lastValid := false,
    dir := .input, st := .idle, byteIdx := 0, bitIdx := 0, curByte := 0, cnt := 0, snapHi := 0, snapLo := 0,
    port := 0, rspValid := false, rspData := 0, rspCode := .ok, buf := [],
    pins := .quiet, future := [], draws := 0, cfg := Config.params }

end Sys2Proof.Machine
end

