-- ==== Sys2Proof/Machine/Ops.lean ====
section
/-! DEFINITION. The shared operations: the pixel buffer's bytes, the response and `raise`, the output port, the input pins. -/

namespace Sys2Proof.Machine

/-! ### The bytes of the pixel buffer -/

/-- The byte at an address; an unlisted address reads as 0 (the zero fill of R181; log 4, DESIGN CHOICE,
unsafe). -/
def Memory.read : Memory → Nat → Byte
  | [], _ => 0
  | c :: m, a => if c.1 = a then c.2 else Memory.read m a

/-- The byte at `a` becomes `v`. -/
def Memory.write : Memory → Nat → Byte → Memory
  | [], a, v => if v = 0 then [] else [(a, v)]
  | c :: m, a, v =>
    if a < c.1 then (if v = 0 then c :: m else (a, v) :: c :: m)
    else if a = c.1 then (if v = 0 then m else (a, v) :: m)
    else c :: Memory.write m a v

/-- Every byte below `n` becomes 0. -/
def Memory.clearBelow (m : Memory) (n : Nat) : Memory :=
  m.filter (fun c => decide (n ≤ c.1))

/-- The canonical form above the address `lo`: addresses rising, no entry 0. -/
def Memory.wfFrom : Nat → Memory → Bool
  | _, [] => true
  | lo, c :: m => decide (lo ≤ c.1) && decide (c.2 ≠ 0) && Memory.wfFrom (c.1 + 1) m

/-- The canonical form of a memory. -/
def Memory.wf (m : Memory) : Bool := Memory.wfFrom 0 m

/-- `NB = 3 * num_leds`, exact (20_memory.md R60, R62). -/
def State.nb (s : State) : Nat := 3 * s.numLeds.toNat

/-- The precondition of the buffer primitives (R60). -/
def State.hasByte (s : State) (a : Nat) : Bool := s.alive && s.bufOk && decide (a < s.nb)

/-- `MemRead(a, 1)` (R60). -/
def State.memRead (s : State) (a : Nat) : Option Byte :=
  if s.hasByte a then some (s.buf.read a) else none

/-- `MemWrite(a, 1, v)` (R60). -/
def State.memWrite (s : State) (a : Nat) (v : Byte) : Option State :=
  if s.hasByte a then some { s with buf := s.buf.write a v } else none

/-! ### The response -/

/-- The response registers hold a command's result in the next cycle (10_state.md R39). -/
def State.respond (s : State) (c : RspCode) (d : Packed) : State :=
  { s with rspValid := true, rspCode := c, rspData := d }

/-- A command ends with `OK` and its data (60_exceptions.md R210). -/
def answer (s : State) (d : Packed) : Result := .next (s.respond .ok d)

/-- `raise <Code>()`: the block's one way to report an error. Its only effect is the response, with data 0 (R210, R211). -/
def raise (c : RspCode) (s : State) : Result := .next (s.respond c 0)

/-- The commands that need a strip answer `NO_STRIP` without one (R212). -/
def needStrip (s : State) (k : State → Result) : Result :=
  if s.alive then k s else raise .noStrip s

/-! ### The output port -/

/-- `pmask = 1 << pin` (R25). -/
def State.pmask (s : State) : PortWord := (1 : PortWord) <<< s.pin.toNat

/-- `port[pin] <- 0`: that bit alone (42_lifecycle_latch.md R183, R185). -/
def State.clearPinBit (s : State) : State := { s with port := s.port &&& ~~~s.pmask }

/-- The bits an external write may reach: all but the pin's while a strip exists (R33). -/
def State.extMask (s : State) : PortWord :=
  s.pins.extWrMask &&& (if s.alive then ~~~s.pmask else 0xFF)

/-- The port after the cycle's external write (R33). -/
def State.extPort (s : State) : PortWord :=
  if s.pins.extWrEn then (s.port &&& ~~~s.extMask) ||| (s.pins.extWrVal &&& s.extMask) else s.port

/-- The external write of the cycle (R33, 20_memory.md R78). -/
def State.extWrite (s : State) : State := { s with port := s.extPort }

/-! ### The input pins -/

/-- The free draw number `k` of the input pins (log 1). -/
def Inputs.free (k : Nat) : Inputs :=
  { rst := Config.freeRst k, cmdValid := Config.freeCmdValid k, cmdWord := Config.freeCmdWord k,
    nowUs := Config.freeNowUs k, allocGrant := Config.freeAllocGrant k, extWrEn := Config.freeExtWrEn k,
    extWrMask := Config.freeExtWrMask k, extWrVal := Config.freeExtWrVal k }

/-- The input pins of the next cycle: the next listed ones, or a free draw (log 1). -/
def State.nextPins (s : State) : Inputs :=
  match s.future with
  | p :: _ => p
  | [] => .free s.draws

/-- The number of the next free draw, one more once a draw is taken. -/
def State.nextDraws (s : State) : Nat :=
  match s.future with
  | _ :: _ => s.draws
  | [] => s.draws + 1

/-- The inputs move on by one cycle, whatever the registers do (log 1, DESIGN CHOICE, safe). -/
def State.nextInputs (s : State) : State :=
  { s with pins := s.nextPins, future := s.future.tail, draws := s.nextDraws }

/-- The input pins `k` cycles from now. -/
def State.inputAt (s : State) : Nat → Inputs
  | 0 => s.pins
  | k + 1 =>
    match s.future[k]? with
    | some p => p
    | none => .free (s.draws + (k - s.future.length))

/-- The next state's part of an outcome, changed. -/
def mapNext (f : State → State) : Result → Result
  | .next s => .next (f s)
  | .fault r => .fault r
  | .refused r => .refused r

end Sys2Proof.Machine
end

