-- ==== Sys2Proof/Machine/Operands.lean ====
section
/-! DEFINITION. What the commands compute from their operands: pixel addresses and bounds, colours, brightness, phase lengths. -/

namespace Sys2Proof.Machine

/-- `in_range(idx)` (40_pixel_buffer.md R100). -/
def State.inRange (s : State) (idx : Idx) : Bool :=
  s.alive && s.bufOk && decide (idx.toNat < s.numLeds.toNat)

/-- The address of channel `k` of LED `idx`: `3*idx + k`, exact (20_memory.md R61, R67). -/
def pixelAddr (idx : Idx) (k : Nat) : Nat := 3 * idx.toNat + k

/-- `scale(c, f)` (R101). -/
def scale (c f : Byte) : Byte :=
  if f = 0 then c else ((c.setWidth 16 * f.setWidth 16) >>> 8).setWidth 8

/-- `pack(r, g, b)` (R102). -/
def pack (r g b : Byte) : Packed := (0 : BitVec 8) ++ r ++ g ++ b

/-- Red of `unpack(p)` (R102). -/
def unpackR (p : Packed) : Byte := p.extractLsb' 16 8
/-- Green of `unpack(p)`. -/
def unpackG (p : Packed) : Byte := p.extractLsb' 8 8
/-- Blue of `unpack(p)`; bits 31:24 are read by none of the three. -/
def unpackB (p : Packed) : Byte := p.extractLsb' 0 8

/-- The three bytes of an LED in wire order red, blue, green, all at one edge (R61, 20_memory.md R68). -/
def State.writeTriplet (s : State) (idx : Idx) (red blue green : Byte) : Option State :=
  match s.memWrite (pixelAddr idx 0) red with
  | none => none
  | some s1 =>
    match s1.memWrite (pixelAddr idx 1) blue with
    | none => none
    | some s2 => s2.memWrite (pixelAddr idx 2) green

/-- The packed colour an LED's stored bytes stand for (R106). -/
def State.readTriplet (s : State) (idx : Idx) : Option Packed :=
  match s.memRead (pixelAddr idx 0), s.memRead (pixelAddr idx 1), s.memRead (pixelAddr idx 2) with
  | some red, some blue, some green => some (pack red green blue)
  | _, _, _ => none

/-- The stored factor of a requested level: `(level + 1) mod 256` (R111). -/
def storedFactor (level : Byte) : Byte := level + 1

/-- `TH(b)` (41_transmitter.md R140). -/
def th (p : Params) (b : Bool) : Nat := if b then p.t1h else p.t0h

/-- `TL(b)`, the remainder of the bit period (R140). -/
def tl (p : Params) (b : Bool) : Nat := p.tbit - th p b

end Sys2Proof.Machine
end

