-- ==== Sys2Proof/Machine/Lifecycle.lean ====
section
/-! DEFINITION. The lifecycle commands (42_lifecycle_latch.md): CONSTRUCT, DESTROY, BEGIN, SHOW. -/

namespace Sys2Proof.Machine

/-- `buf_ok` of a new strip of `n` LEDs: the allocator's answer of this cycle, and room for `3*n` bytes, computed exactly
(20_memory.md R62). -/
def State.allocates (s : State) (n : Idx) : Bool :=
  s.pins.allocGrant && decide (3 * n.toNat ≤ s.cfg.bufCap)

/-- CONSTRUCT (R181), its checks in the order of 60_exceptions.md R213. -/
def execConstruct (n : Idx) (pinid : Byte) (s : State) : Result :=
  if s.alive then raise .already s
  else if Config.portW ≤ pinid.toNat then raise .illegal s
  else
    answer
      { s with
        alive := true, numLeds := n, pin := pinid.extractLsb' 0 3, bufOk := s.allocates n,
        buf := if s.allocates n then s.buf.clearBelow (3 * n.toNat) else s.buf,
        bright := 0, lastEnd := 0, lastValid := false } 0

/-- DESTROY (R183). The buffer's contents become unspecified: with `alive = 0` no access reaches them, and the model keeps
them (log 4, DESIGN CHOICE, unsafe). -/
def execDestroy (s : State) : Result :=
  needStrip s fun s => answer { s.clearPinBit with dir := .input, alive := false, bufOk := false } 0

/-- BEGIN (R185). -/
def execBegin (s : State) : Result :=
  needStrip s fun s => answer { s.clearPinBit with dir := .output } 0

/-- SHOW (R187): with a buffer the next cycle is the first WAIT cycle and the response comes at the frame's end (R158). -/
def execShow (s : State) : Result :=
  needStrip s fun s => if s.bufOk then .next { s with st := .wait } else answer s 0

end Sys2Proof.Machine
end

