-- ==== Sys2Proof/Machine/PixelBuffer.lean ====
section
/-! DEFINITION. The pixel buffer commands (40_pixel_buffer.md): SETPIX_RGB, SETPIX_PACKED, GETPIX, SETBRIGHT, NUMPIX, COLOR. The state
given to a meaning is the cycle's `S'` so far: the response cleared and the external write done (00_scope.md R14). -/

namespace Sys2Proof.Machine

/-- `setPixelColor` in component form (R104): scaled by the stored factor, a silent no-op out of range. -/
def setPixel (idx : Idx) (r g b : Byte) (s : State) : Result :=
  needStrip s fun s =>
    if s.inRange idx then
      match s.writeTriplet idx (scale r s.bright) (scale b s.bright) (scale g s.bright) with
      | some s' => answer s' 0
      | none => .fault .bufferAddressOutside
    else answer s 0

/-- SETPIX_RGB (R104). -/
def execSetpixRgb (idx : Idx) (r g b : Byte) (s : State) : Result := setPixel idx r g b s

/-- SETPIX_PACKED (R105): "unpacks a 24-bit value ... and forwards to the component form". -/
def execSetpixPacked (idx : Idx) (packed : Packed) (s : State) : Result :=
  setPixel idx (unpackR packed) (unpackG packed) (unpackB packed) s

/-- GETPIX (R106). -/
def execGetpix (idx : Idx) (s : State) : Result :=
  needStrip s fun s =>
    if s.inRange idx then
      match s.readTriplet idx with
      | some v => answer s v
      | none => .fault .bufferAddressOutside
    else answer s 0

/-- SETBRIGHT (R112), the same with an absent buffer. -/
def execSetbright (level : Byte) (s : State) : Result :=
  needStrip s fun s => answer { s with bright := storedFactor level } 0

/-- NUMPIX (R116). -/
def execNumpix (s : State) : Result :=
  needStrip s fun s => answer s (s.numLeds.setWidth 32)

/-- COLOR (R118), in either `alive` state. -/
def execColor (r g b : Byte) (s : State) : Result := answer s (pack r g b)

end Sys2Proof.Machine
end

