-- ==== Sys2Proof/Machine/Reserved.lean ====
section
/-! DEFINITION. The reserved opcodes (30_encoding.md R85): ILLEGAL in any `alive` state, no other change. -/

namespace Sys2Proof.Machine

/-- OP 0x0 (R85). -/
def execReserved0x0 (s : State) : Result := raise .illegal s
/-- OP 0xB (R85). -/
def execReserved0xB (s : State) : Result := raise .illegal s
/-- OP 0xC (R85). -/
def execReserved0xC (s : State) : Result := raise .illegal s
/-- OP 0xD (R85). -/
def execReserved0xD (s : State) : Result := raise .illegal s
/-- OP 0xE (R85). -/
def execReserved0xE (s : State) : Result := raise .illegal s
/-- OP 0xF (R85). -/
def execReserved0xF (s : State) : Result := raise .illegal s

end Sys2Proof.Machine
end

