-- ==== Sys2Proof/Machine/Dispatch.lean ====
section
/-! DEFINITION. One arm per command (30_encoding.md R83): `execute decode(cmd_word)` of 41_transmitter.md R150. -/

namespace Sys2Proof.Machine

def exec (i : Instr) (s : State) : Host.Outcome State Fault Refusal :=
  match i with
  | .construct n pinid => Sys2Proof.Machine.execConstruct n pinid s
  | .destroy => Sys2Proof.Machine.execDestroy s
  | .beginStrip => Sys2Proof.Machine.execBegin s
  | .showFrame => Sys2Proof.Machine.execShow s
  | .setpixRgb idx r g b => Sys2Proof.Machine.execSetpixRgb idx r g b s
  | .setpixPacked idx packed => Sys2Proof.Machine.execSetpixPacked idx packed s
  | .getpix idx => Sys2Proof.Machine.execGetpix idx s
  | .setbright level => Sys2Proof.Machine.execSetbright level s
  | .numpix => Sys2Proof.Machine.execNumpix s
  | .color r g b => Sys2Proof.Machine.execColor r g b s
  | .reserved0x0 => Sys2Proof.Machine.execReserved0x0 s
  | .reserved0xB => Sys2Proof.Machine.execReserved0xB s
  | .reserved0xC => Sys2Proof.Machine.execReserved0xC s
  | .reserved0xD => Sys2Proof.Machine.execReserved0xD s
  | .reserved0xE => Sys2Proof.Machine.execReserved0xE s
  | .reserved0xF => Sys2Proof.Machine.execReserved0xF s

end Sys2Proof.Machine
end

