-- ==== Sys2Proof/Machine/Flags.lean ====
section
/-! DEFINITION. The block has no flags (10_state.md R22). Its status outputs are functions of the state (00_scope.md R13). -/

namespace Sys2Proof.Machine

/-- `cmd_ready` (R38). -/
def State.cmdReady (s : State) : Bool := s.st == .idle

/-- `busy` (R40). -/
def State.busy (s : State) : Bool := !s.cmdReady

/-- `crit` (R35). -/
def State.crit (s : State) : Bool :=
  match s.st with
  | .high => true
  | .low => true
  | .gap => true
  | .idle => false
  | .wait => false
  | .done => false

/-- The output line (R34). -/
inductive Line where
  | zero
  | one
  /-- `Z`: not driven by the block -/
  | z
  deriving DecidableEq, Repr

/-- `dout` (R34). -/
def State.dout (s : State) : Line :=
  if s.alive && s.dir == .output then (if s.port.getLsbD s.pin.toNat then .one else .zero) else .z

/-- The bits of a response code (R39, 60_exceptions.md R210). -/
def RspCode.bits : RspCode → BitVec 2
  | .ok => 0
  | .illegal => 1
  | .noStrip => 2
  | .already => 3

/-- The bits of the sequencer state (R31). -/
def SeqState.bits : SeqState → BitVec 3
  | .idle => 0
  | .wait => 1
  | .high => 2
  | .low => 3
  | .gap => 4
  | .done => 5

/-- The bit of the direction (R30). -/
def Dir.bit : Dir → BitVec 1
  | .input => 0
  | .output => 1

/-- What the host can observe in one cycle (R43); the response means something only while `rsp_valid = 1` (R39). -/
structure Observation where
  rsp : Option (RspCode × Packed)
  cmdReady : Bool
  busy : Bool
  crit : Bool
  port : PortWord
  dout : Line
  deriving DecidableEq, Repr

/-- The outputs of a cycle. -/
def State.observe (s : State) : Observation :=
  { rsp := if s.rspValid then some (s.rspCode, s.rspData) else none,
    cmdReady := s.cmdReady, busy := s.busy, crit := s.crit, port := s.port, dout := s.dout }

end Sys2Proof.Machine
end

