-- ==== Sys2Proof/Machine/Sequencer.lean ====
section
/-! DEFINITION. The bit and frame transmitter (41_transmitter.md R150 to R158) and the latch test (42_lifecycle_latch.md R190). Each
transition reads the cycle's state `s` (the spec's `S`) and writes on `s'` (its `S'`), which already has the response cleared and the
external write done (00_scope.md R14). -/

namespace Sys2Proof.Machine

/-- `latch_ok(S, now_us)` (R190): the difference is unsigned and modulo 2^32. -/
def State.latchOk (s : State) (now : Time) : Bool :=
  !s.lastValid || decide (s.cfg.latchUs ≤ (now - s.lastEnd).toNat)

/-- `snap_hi` of a frame: the port with the pin bit set (R146). -/
def State.lineHigh (s : State) : PortWord := s.port ||| s.pmask

/-- `snap_lo` of a frame: the port with the pin bit cleared (R146). -/
def State.lineLow (s : State) : PortWord := s.port &&& ~~~s.pmask

/-- The bit of the current byte being sent. -/
def State.curBit (s : State) : Bool := s.curByte.getLsbD s.bitIdx.toNat

/-- `LOAD(k)` with the given `snap_hi` (R152). -/
def load (k : Nat) (hi : PortWord) (s s' : State) : Result :=
  match s.memRead k with
  | none => .fault .bufferAddressOutside
  | some v =>
    .next
      { s' with
        curByte := v, byteIdx := BitVec.ofNat 18 k, bitIdx := 7, port := hi,
        cnt := th s.cfg (v.getLsbD 7) - 1, st := .high }

/-- `WAIT` (R151). An empty frame writes no port (R159), so an external write of its snapshot cycle stays, against R78 and R251 (log 13,
DEDUCED). -/
def seqWait (s s' : State) : Result :=
  if s.latchOk s.pins.nowUs then
    if s.nb = 0 then .next { s' with snapHi := s.lineHigh, snapLo := s.lineLow, st := .done }
    else load 0 s.lineHigh s { s' with snapHi := s.lineHigh, snapLo := s.lineLow }
  else .next s'

/-- `HIGH` (R153). -/
def seqHigh (s s' : State) : Result :=
  if s.cnt ≠ 0 then .next { s' with cnt := s.cnt - 1 }
  else .next { s' with port := s.snapLo, cnt := tl s.cfg s.curBit - 1, st := .low }

/-- `LOW` (R154). Its last branch writes no port, so an external write in the last bit's low phase stays, against R78 and R251 (log 13,
DEDUCED). -/
def seqLow (s s' : State) : Result :=
  if s.cnt ≠ 0 then .next { s' with cnt := s.cnt - 1 }
  else if s.bitIdx ≠ 0 then
    .next
      { s' with
        bitIdx := s.bitIdx - 1, port := s.snapHi,
        cnt := th s.cfg (s.curByte.getLsbD (s.bitIdx - 1).toNat) - 1, st := .high }
  else if s.byteIdx.toNat + 1 < s.nb then
    if 0 < s.cfg.tByteGap then .next { s' with cnt := s.cfg.tByteGap - 1, st := .gap }
    else load (s.byteIdx.toNat + 1) s.snapHi s s'
  else .next { s' with st := .done }

/-- `GAP` (R155). -/
def seqGap (s s' : State) : Result :=
  if s.cnt ≠ 0 then .next { s' with cnt := s.cnt - 1 }
  else load (s.byteIdx.toNat + 1) s.snapHi s s'

/-- `DONE` (R158): "`port` is not written" (log 13, DEDUCED). -/
def seqDone (s s' : State) : Result :=
  answer { s' with lastEnd := s.pins.nowUs, lastValid := true, st := .idle } 0

/-- The sequencer's part of a cycle; in `IDLE` it does nothing (R150). -/
def sequencer (s s' : State) : Result :=
  match s.st with
  | .idle => .next s'
  | .wait => seqWait s s'
  | .high => seqHigh s s'
  | .low => seqLow s s'
  | .gap => seqGap s s'
  | .done => seqDone s s'

/-! ### The frame of one cycle -/

/-- `S'` before the command or the sequencer: the response cleared, then the external write (R14, R150). -/
def State.beginCycle (s : State) : State := ({ s with rspValid := false } : State).extWrite

/-- The next state under `rst = 1`: `ResetState` whatever the other inputs are (R240), with the block's parameters and the inputs to
come, which no reset touches (log 12, DESIGN CHOICE). -/
def State.resetCycle (s : State) : State :=
  ({ State.reset with pins := s.pins, future := s.future, draws := s.draws, cfg := s.cfg } : State).nextInputs

/-- A command is accepted in this cycle (R38). -/
def State.accepts (s : State) : Bool := s.cmdReady && s.pins.cmdValid

/-- The command word of this cycle. -/
def State.fetch (s : State) : CmdWord := s.pins.cmdWord

/-- The state in which the word `w` is the command accepted in this cycle, whatever it was before (log 7, DESIGN CHOICE). -/
def State.present (s : State) (w : CmdWord) : State :=
  { s with st := .idle, pins := { s.pins with rst := false, cmdValid := true, cmdWord := w } }

end Sys2Proof.Machine
end

