-- ==== Sys2Proof/Machine/Step.lean ====
section
/-! DEFINITION. `Step(S, In)` of 41_transmitter.md R150: one clock cycle. -/

namespace Sys2Proof.Machine

/-- One cycle (R13, R14, R150). The inputs `In` are the pins of the state; the next cycle's pins follow (log 1; log 10,
DEDUCED). -/
def step (s : State) : Host.Outcome State Fault Refusal :=
  if s.pins.rst then .next s.resetCycle
  else if s.accepts then mapNext State.nextInputs (exec (decode s.fetch) s.beginCycle)
  else mapNext State.nextInputs (sequencer s s.beginCycle)

/-- The state whose next step accepts and runs the command word `w` (log 7). -/
def State.withFetchWord (s : State) (nbits w : Nat) : State := s.present (tableWord nbits w)

end Sys2Proof.Machine
end

