-- ==== Sys2Proof/Safety.lean ====
section
/-! DEFINITION. What the claims are stated in terms of: the invariant of the block, runs without reset, and what the host cannot tell
apart. -/

namespace Sys2Proof.Machine

/-- The sequencer is sending a frame. -/
abbrev State.inFrame (s : State) : Prop := s.st = .high ∨ s.st = .low ∨ s.st = .gap

/-- The level of the strip's bit of the port. -/
abbrev State.pinLevel (s : State) : Bool := s.port.getLsbD s.pin.toNat

/-- What holds of every state of a block that was reset. Each field is a promise the spec makes about the whole machine. -/
structure State.Inv (s : State) : Prop where
  /-- 00_scope.md R9 -/
  params : s.cfg.Valid
  /-- the buffer's list is canonical (log 4) -/
  memWf : Memory.wf s.buf = true
  /-- 20_memory.md R62: the buffer holds at most `BUF_CAP` bytes -/
  memCap : ∀ c ∈ s.buf, c.1 < s.cfg.bufCap
  /-- a buffer exists only with a strip (10_state.md R41) -/
  bufAlive : s.bufOk = true → s.alive = true
  /-- R62 -/
  bufFits : s.bufOk = true → s.nb ≤ s.cfg.bufCap
  /-- without a strip the line is not driven (R30, 42_lifecycle_latch.md R183) -/
  deadInput : s.alive = false → s.dir = .input
  /-- a frame needs a buffer (R187), and none is lost during it (R38) -/
  busyBuf : s.st ≠ .idle → s.bufOk = true
  /-- no response while a frame runs (R39, 20_memory.md R74) -/
  rspIdle : s.rspValid = true → s.st = .idle
  /-- bits 31:24 of every response are 0 (40_pixel_buffer.md R102, R116) -/
  rspTop : s.rspData.toNat < 2 ^ 24
  /-- an error's data is 0 (60_exceptions.md R210) -/
  errData : s.rspCode ≠ .ok → s.rspData = 0
  /-- `cnt` has `CNT_W` bits (10_state.md R32) -/
  cntFits : s.cnt < 2 ^ s.cfg.cntW
  /-- the timestamp is zero until a frame was sent (R29, 90_conflicts.md C1) -/
  unsent : s.lastValid = false → s.lastEnd = 0
  /-- a driven line is low outside the high phases (R34, R193) -/
  lineIdle : s.dir = .output → s.st ≠ .high → s.pinLevel = false
  /-- `0 <= byte_idx < 3 * num_leds`, and `cur_byte` is that byte (R32) -/
  frameByte : s.inFrame → s.byteIdx.toNat < s.nb ∧ s.curByte = s.buf.read s.byteIdx.toNat
  /-- the two snapshots differ in the pin's bit alone (41_transmitter.md R146) -/
  frameSnap : s.inFrame → s.snapHi = s.snapLo ||| s.pmask ∧ s.snapLo = s.snapLo &&& ~~~s.pmask
  /-- `cnt` is the cycles left in the phase minus one, the line at the phase's level (R32, R140) -/
  highPhase : s.st = .high → s.cnt < th s.cfg s.curBit ∧ s.pinLevel = true
  lowPhase : s.st = .low → s.cnt < tl s.cfg s.curBit ∧ s.pinLevel = false
  /-- a gap stands between two bytes only (R144) -/
  gapPhase : s.st = .gap →
    s.cnt < s.cfg.tByteGap ∧ s.bitIdx = 0 ∧ s.byteIdx.toNat + 1 < s.nb ∧ s.pinLevel = false

/-- The two states hold the same registers, the same buffer and the same parameters; the inputs, now and to come, are left open. -/
abbrev State.SameRegisters (t u : State) : Prop := t = { u with pins := t.pins, future := t.future, draws := t.draws }

/-- One cycle leads from `s` to the registers of `u`, whatever the next cycle's inputs are. -/
def State.StepsTo (s u : State) : Prop := ∃ t, step s = .next t ∧ t.SameRegisters u

/-- `n` cycles of the machine the host runs. -/
abbrev runFor (n : Nat) (s : State) : Result := Host.Core.run Sys2Proof.core n s

/-- No reset in the next `n` cycles, this one the first. -/
def State.NoReset (s : State) (n : Nat) : Prop := ∀ k < n, (s.inputAt k).rst = false

/-- No external write to the port in the next `n` cycles, this one the first. -/
def State.NoExtWrite (s : State) (n : Nat) : Prop := ∀ k < n, (s.inputAt k).extWrEn = false

/-- The length of a frame's crit window in cycles (41_transmitter.md R157). -/
def State.frameCycles (s : State) : Nat :=
  24 * s.numLeds.toNat * s.cfg.tbit + (3 * s.numLeds.toNat - 1) * s.cfg.tByteGap

/-- `bitstream(j)` (41_transmitter.md R147): bit `7 - (j mod 8)` of byte `j div 8`. -/
def State.bitstream (s : State) (j : Nat) : Bool := (s.buf.read (j / 8)).getLsbD (7 - j % 8)

/-- `B_j - F`: where bit `j` starts, counted from the frame's first high cycle (R147). -/
def State.bitStart (s : State) (j : Nat) : Nat := j * s.cfg.tbit + (j / 8) * s.cfg.tByteGap

/-- Two states the spec says the host cannot tell apart: equal in everything a later cycle can show. They may differ in the sequencer
registers outside a frame (10_state.md R21, R32), in `rsp_*` without a response (R39), in the bytes outside the strip and in all strip
registers without a strip (20_memory.md R63, 42_lifecycle_latch.md R183), and in `last_end` before the first frame (R29). -/
structure SameToHost (s t : State) : Prop where
  alive : s.alive = t.alive
  dir : s.dir = t.dir
  st : s.st = t.st
  port : s.port = t.port
  rspValid : s.rspValid = t.rspValid
  rsp : s.rspValid = true → s.rspCode = t.rspCode ∧ s.rspData = t.rspData
  strip : s.alive = true →
    s.numLeds = t.numLeds ∧ s.pin = t.pin ∧ s.bufOk = t.bufOk ∧ s.bright = t.bright ∧ s.lastValid = t.lastValid
  lastEnd : s.alive = true → s.lastValid = true → s.lastEnd = t.lastEnd
  bytes : s.alive = true → s.bufOk = true → ∀ a < s.nb, s.buf.read a = t.buf.read a
  frame : s.inFrame →
    s.byteIdx = t.byteIdx ∧ s.bitIdx = t.bitIdx ∧ s.curByte = t.curByte ∧ s.cnt = t.cnt ∧
      s.snapHi = t.snapHi ∧ s.snapLo = t.snapLo
  pins : s.pins = t.pins
  future : s.future = t.future
  draws : s.draws = t.draws
  cfg : s.cfg = t.cfg

end Sys2Proof.Machine
end

