-- ==== Sys2Proof/Certificates/Slice0/Obligations.lean ====
section
/-! DEFINITION. The statements for the provers. A meaning is given the cycle's `S'` so far (00_scope.md R14: response cleared, external
write done), so a statement about `exec` for every state holds for that one; `StepRunsDecodedCommand` joins it to the cycle. -/

open Sys2Proof Sys2Proof.Machine

/-! ### Encoding -/

/-- R90: the ten examples, each word decoding to its command and each command encoding to its word. -/
def Obligations.EncodingExamplesDecode : Prop :=
  ∀ p ∈ [
      (Instr.color 10 20 30, (0xA0000000000A141E : CmdWord)),
      (Instr.construct 2 3, 0x1000000200000003),
      (Instr.setpixRgb 0 0xFF 0x00 0x80, 0x5000000000FF0080),
      (Instr.setpixPacked 1 0x123456, 0x6000000100123456),
      (Instr.getpix 1, 0x7000000100000000),
      (Instr.setbright 127, 0x800000000000007F),
      (Instr.showFrame, 0x4000000000000000),
      (Instr.beginStrip, 0x3000000000000000),
      (Instr.numpix, 0x9000000000000000),
      (Instr.destroy, 0x2000000000000000)],
    decode p.2 = p.1 ∧ encode p.1 = p.2

/-- R82, R83, R88: no operand bit is lost, for every command and every operand value. -/
def Obligations.DecodeEncodeRoundTrip : Prop := ∀ i : Instr, decode (encode i) = i

/-- R86: the ignored bits of a word (those the command's row does not list, and bits 31:24 of SETPIX_PACKED) never change the result. -/
def Obligations.IgnoredBitsNeverChangeTheResult : Prop :=
  ∀ (w x : CmdWord) (s : State),
    let ignored : CmdWord :=
      match (w >>> 60).toNat with
      | 0x1 => 0x0FFF0000FFFFFF00
      | 0x5 => 0x0FFF0000FF000000
      | 0x6 => 0x0FFF0000FF000000
      | 0x7 => 0x0FFF0000FFFFFFFF
      | 0x8 => 0x0FFFFFFFFFFFFF00
      | 0xA => 0x0FFFFFFFFF000000
      | _ => 0x0FFFFFFFFFFFFFFF
    exec (decode (w ^^^ (x &&& ignored))) s = exec (decode w) s

/-- R83, R84, R88: encoding what a word decodes to gives the word back with the bits outside its command's operands cleared. Bits 31:24 of
SETPIX_PACKED stay: R86 ignores them too, but they are part of the operand `packed` (R84, V-EN-14). -/
def Obligations.EncodeDecodeClearsIgnoredBits : Prop :=
  ∀ w : CmdWord, encode (decode w) = w &&& ~~~ignoredMask (decode w)

/-- R88 and R89, in numbers: for each form of line, the pseudo-instructions included, the line is refused exactly when an operand does not
fit its field, and otherwise assembles to the word with the opcode at bit 60, the index or count at bit 32, the data below it, the operands
as written and every other bit 0. What a line assembles to decodes to the commands it stands for. That SETPIX refuses a colour of 2^24 or
more is the model's choice (log 14): R89 gives the operand as `0xRRGGBB` and no width. -/
def Obligations.AssemblerRefusesWideOperands : Prop :=
  (∀ n p : Nat, assemble (.construct n p) =
    if n < 65536 ∧ p < 256 then some [BitVec.ofNat 64 (0x1 * 2 ^ 60 + n * 2 ^ 32 + p)] else none) ∧
  assemble .destroy = some [0x2000000000000000] ∧
  assemble .beginStrip = some [0x3000000000000000] ∧
  assemble .showFrame = some [0x4000000000000000] ∧
  (∀ i r g b : Nat, assemble (.setpixRgb i r g b) =
    if i < 65536 ∧ r < 256 ∧ g < 256 ∧ b < 256 then
      some [BitVec.ofNat 64 (0x5 * 2 ^ 60 + i * 2 ^ 32 + r * 2 ^ 16 + g * 2 ^ 8 + b)]
    else none) ∧
  (∀ i p : Nat, assemble (.setpixPacked i p) =
    if i < 65536 ∧ p < 4294967296 then some [BitVec.ofNat 64 (0x6 * 2 ^ 60 + i * 2 ^ 32 + p)] else none) ∧
  (∀ i : Nat, assemble (.getpix i) = if i < 65536 then some [BitVec.ofNat 64 (0x7 * 2 ^ 60 + i * 2 ^ 32)] else none) ∧
  (∀ l : Nat, assemble (.setbright l) = if l < 256 then some [BitVec.ofNat 64 (0x8 * 2 ^ 60 + l)] else none) ∧
  assemble .numpix = some [0x9000000000000000] ∧
  (∀ r g b : Nat, assemble (.color r g b) =
    if r < 256 ∧ g < 256 ∧ b < 256 then some [BitVec.ofNat 64 (0xA * 2 ^ 60 + r * 2 ^ 16 + g * 2 ^ 8 + b)] else none) ∧
  (∀ i : Nat, assemble (.clearpix i) = if i < 65536 then some [BitVec.ofNat 64 (0x5 * 2 ^ 60 + i * 2 ^ 32)] else none) ∧
  assemble .noscale = some [0x80000000000000FF] ∧
  (∀ i c : Nat, assemble (.setpix i c) =
    if i < 65536 ∧ c < 16777216 then some [BitVec.ofNat 64 (0x6 * 2 ^ 60 + i * 2 ^ 32 + c)] else none) ∧
  (∀ n p : Nat, assemble (.init n p) =
    if n < 65536 ∧ p < 256 then some [BitVec.ofNat 64 (0x1 * 2 ^ 60 + n * 2 ^ 32 + p), 0x3000000000000000] else none) ∧
  (∀ l : SourceLine, l.wellFormed = false ↔ assemble l = none) ∧
  (∀ (l : SourceLine) (ws : List CmdWord), assemble l = some ws → ws.map decode = l.expand)

/-- R89: each pseudo-instruction assembles to what its expansion assembles to. -/
def Obligations.PseudoInstructionsExpand : Prop :=
  (∀ idx, assemble (.clearpix idx) = assemble (.setpixRgb idx 0 0 0)) ∧
  (assemble .noscale = assemble (.setbright 255)) ∧
  (∀ idx rgb, rgb < 2 ^ 24 → assemble (.setpix idx rgb) = assemble (.setpixPacked idx rgb)) ∧
  (∀ n pinid, assemble (.init n pinid) =
    match assemble (.construct n pinid), assemble .beginStrip with
    | some a, some b => some (a ++ b)
    | _, _ => none)

/-! ### Reset, the invariant, and the cycle -/

/-- R240: in any cycle with `rst = 1`, whatever the state and the other inputs, the next state is `ResetState`. The buffer, whose contents
the rule leaves unspecified, is not mentioned. -/
def Obligations.ResetFromAnyCycle : Prop :=
  ∀ s : State, s.pins.rst = true →
    ∃ t, step s = .next t ∧
      t.alive = false ∧ t.numLeds = 0 ∧ t.pin = 0 ∧ t.bufOk = false ∧ t.bright = 0 ∧ t.lastEnd = 0 ∧ t.lastValid = false ∧
      t.dir = .input ∧ t.st = .idle ∧ t.byteIdx = 0 ∧ t.bitIdx = 0 ∧ t.curByte = 0 ∧ t.cnt = 0 ∧ t.snapHi = 0 ∧
      t.snapLo = 0 ∧ t.port = 0 ∧ t.rspValid = false ∧ t.rspData = 0 ∧ t.rspCode = .ok ∧
      t.cmdReady = true ∧ t.busy = false ∧ t.crit = false ∧ t.dout = .z

/-- The invariant of Safety.lean holds in the reset state. -/
def Obligations.ResetStateMeetsInvariant : Prop := State.reset.Inv

/-- The invariant is kept by every cycle from every state that meets it, whatever the inputs. -/
def Obligations.StepKeepsInvariant : Prop := ∀ s t : State, s.Inv → step s = .next t → t.Inv

/-- R215 and R60: no condition makes the block stop, and no buffer access falls outside the strip's bytes, in any number of cycles with
any inputs. -/
def Obligations.RunsNeverStop : Prop :=
  ∀ (s : State) (n : Nat), s.Inv → ∃ t, runFor n s = .next t ∧ t.Inv

/-- R38, R84, R150: a command presented in IDLE without reset is decoded and executed on the state whose response is cleared and whose
port has taken the external write; then the inputs move on by one cycle (the model's own bookkeeping, log 1). -/
def Obligations.StepRunsDecodedCommand : Prop :=
  ∀ (s : State) (i : Instr), s.pins.rst = false → s.st = .idle → s.pins.cmdValid = true → decode s.pins.cmdWord = i →
    step s = mapNext State.nextInputs (exec i ({ s with rspValid := false, port := s.extPort } : State))

/-- R150, last sentence: `cmd_valid` and `cmd_word` affect only IDLE, `now_us` only WAIT and DONE, `alloc_grant` only an accepted
CONSTRUCT. -/
def Obligations.UnsampledInputsDoNotMatter : Prop :=
  (∀ (s : State) (v : Bool) (w : CmdWord), s.st ≠ .idle →
    step { s with pins := { s.pins with cmdValid := v, cmdWord := w } } = step s) ∧
  (∀ (s : State) (now : Time), s.st ≠ .wait → s.st ≠ .done →
    step { s with pins := { s.pins with nowUs := now } } = step s) ∧
  (∀ (s : State) (g : Bool), (s.st ≠ .idle ∨ s.pins.cmdValid = false ∨ ∀ n p, decode s.pins.cmdWord ≠ .construct n p) →
    step { s with pins := { s.pins with allocGrant := g } } = step s)

/-- R33 (item 3) and R14, in an IDLE cycle without a command: an external write reaches each bit its mask selects, but not the pin's bit
while a strip exists; nothing else changes but the response strobe, which falls. -/
def Obligations.IdleCycleAppliesExternalWrite : Prop :=
  ∀ s : State, s.pins.rst = false → s.st = .idle → s.pins.cmdValid = false →
    ∃ port : PortWord,
      s.StepsTo { s with rspValid := false, port := port } ∧
      ∀ k < 8, port.getLsbD k =
        if s.pins.extWrEn = true ∧ s.pins.extWrMask.getLsbD k = true ∧ ¬(s.alive = true ∧ s.pin.toNat = k) then
          s.pins.extWrVal.getLsbD k
        else s.port.getLsbD k

/-- R39: the strobe is up in a cycle exactly when the cycle before was a DONE cycle or accepted a command, other than a SHOW that started
a frame, without reset. -/
def Obligations.ResponseStrobeLastsOneCycle : Prop :=
  ∀ s t : State, step s = .next t →
    (t.rspValid = true ↔
      s.pins.rst = false ∧
        (s.st = .done ∨
          s.st = .idle ∧ s.pins.cmdValid = true ∧
            ¬(decode s.pins.cmdWord = .showFrame ∧ s.alive = true ∧ s.bufOk = true)))

/-! ### The commands -/

/-- R181: CONSTRUCT, all its cases. `dir`, `port` and the sequencer registers are not written; the bytes of the new strip are 0. The last
clause, that the bytes outside the new strip keep their values, is the model's choice (log 4): R63 leaves them any value. -/
def Obligations.ConstructMakesStrip : Prop :=
  ∀ (s : State) (n : Idx) (pinid : Byte),
    (s.alive = true →
      exec (.construct n pinid) s = .next { s with rspValid := true, rspCode := .already, rspData := 0 }) ∧
    (s.alive = false → 8 ≤ pinid.toNat →
      exec (.construct n pinid) s = .next { s with rspValid := true, rspCode := .illegal, rspData := 0 }) ∧
    (s.alive = false → pinid.toNat < 8 →
      ∃ t, exec (.construct n pinid) s = .next t ∧
        t = { s with
          alive := true, numLeds := n, pin := BitVec.ofNat 3 pinid.toNat, bufOk := t.bufOk, buf := t.buf,
          bright := 0, lastEnd := 0, lastValid := false, rspValid := true, rspCode := .ok, rspData := 0 } ∧
        (t.bufOk = true ↔ s.pins.allocGrant = true ∧ 3 * n.toNat ≤ s.cfg.bufCap) ∧
        (t.bufOk = true → ∀ a < 3 * n.toNat, t.memRead a = some 0) ∧
        (∀ a, ¬(t.bufOk = true ∧ a < 3 * n.toNat) → t.buf.read a = s.buf.read a))

/-- R183: DESTROY. Only the pin's bit of the port is written, to 0; the line is not driven; the buffer's contents, unspecified after it,
are not mentioned, and no access reaches them. -/
def Obligations.DestroyReleasesStrip : Prop :=
  ∀ s : State,
    (s.alive = false → exec .destroy s = .next { s with rspValid := true, rspCode := .noStrip, rspData := 0 }) ∧
    (s.alive = true →
      ∃ t, exec .destroy s = .next t ∧
        t = { s with
          dir := .input, alive := false, bufOk := false, port := t.port, buf := t.buf,
          rspValid := true, rspCode := .ok, rspData := 0 } ∧
        (∀ k < 8, t.port.getLsbD k = if k = s.pin.toNat then false else s.port.getLsbD k) ∧
        t.dout = .z ∧ ∀ a, t.memRead a = none)

/-- R185: BEGIN. The pin becomes an output driven low; only its bit of the port is written; every byte of the buffer stays. -/
def Obligations.BeginDrivesLineLow : Prop :=
  ∀ s : State,
    (s.alive = false → exec .beginStrip s = .next { s with rspValid := true, rspCode := .noStrip, rspData := 0 }) ∧
    (s.alive = true →
      ∃ t, exec .beginStrip s = .next t ∧
        t = { s with dir := .output, port := t.port, rspValid := true, rspCode := .ok, rspData := 0 } ∧
        (∀ k < 8, t.port.getLsbD k = if k = s.pin.toNat then false else s.port.getLsbD k) ∧
        t.dout = .zero ∧ ∀ a, t.memRead a = s.memRead a)

/-- R187, the acceptance cycle of SHOW: `NO_STRIP`, a complete no-op without a buffer, else only `st` changes and no response is given. -/
def Obligations.ShowStartsWaitOrDoesNothing : Prop :=
  ∀ s : State,
    (s.alive = false → exec .showFrame s = .next { s with rspValid := true, rspCode := .noStrip, rspData := 0 }) ∧
    (s.alive = true → s.bufOk = false →
      exec .showFrame s = .next { s with rspValid := true, rspCode := .ok, rspData := 0 }) ∧
    (s.alive = true → s.bufOk = true → exec .showFrame s = .next { s with st := .wait })

/-- R104 (with R61, R100, R101): SETPIX_RGB in every case. In range the three bytes at `3*idx` hold the scaled red, blue and green; every
other byte, and everything but the response, is unchanged; out of range the buffer is unchanged. -/
def Obligations.SetpixRgbStoresScaledTriplet : Prop :=
  ∀ (s : State) (idx : Idx) (r g b : Byte), Memory.wf s.buf = true →
    (s.alive = false →
      exec (.setpixRgb idx r g b) s = .next { s with rspValid := true, rspCode := .noStrip, rspData := 0 }) ∧
    (s.alive = true → ¬(s.bufOk = true ∧ idx.toNat < s.numLeds.toNat) →
      exec (.setpixRgb idx r g b) s = .next { s with rspValid := true, rspCode := .ok, rspData := 0 }) ∧
    (s.alive = true → s.bufOk = true → idx.toNat < s.numLeds.toNat →
      ∃ (t : State) (red blue green : Byte), exec (.setpixRgb idx r g b) s = .next t ∧
        t = { s with buf := t.buf, rspValid := true, rspCode := .ok, rspData := 0 } ∧
        red.toNat = (if s.bright = 0 then r.toNat else r.toNat * s.bright.toNat / 256) ∧
        blue.toNat = (if s.bright = 0 then b.toNat else b.toNat * s.bright.toNat / 256) ∧
        green.toNat = (if s.bright = 0 then g.toNat else g.toNat * s.bright.toNat / 256) ∧
        t.memRead (3 * idx.toNat) = some red ∧
        t.memRead (3 * idx.toNat + 1) = some blue ∧
        t.memRead (3 * idx.toNat + 2) = some green ∧
        (∀ a, ¬(3 * idx.toNat ≤ a ∧ a < 3 * idx.toNat + 3) → t.buf.read a = s.buf.read a) ∧
        Memory.wf t.buf = true)

/-- R105: SETPIX_PACKED answers what SETPIX_RGB answers on bits 23:16, 15:8 and 7:0 of the packed colour, in every case; bits 31:24 are
ignored. -/
def Obligations.SetpixPackedForwardsUnpacked : Prop :=
  ∀ (s : State) (idx : Idx) (packed : Packed),
    ∃ t, exec (.setpixPacked idx packed) s = .next t ∧
      exec
        (.setpixRgb idx (BitVec.ofNat 8 (packed.toNat / 65536)) (BitVec.ofNat 8 (packed.toNat / 256))
          (BitVec.ofNat 8 packed.toNat)) s = .next t ∧
      ∀ top : Byte, exec (.setpixPacked idx ((packed &&& 0x00FFFFFF) ||| (top.setWidth 32 <<< 24))) s = .next t

/-- R106: GETPIX in every case; the response is the stored triplet packed as red, green, blue, or 0. -/
def Obligations.GetpixReturnsStoredColour : Prop :=
  ∀ (s : State) (idx : Idx),
    (s.alive = false →
      exec (.getpix idx) s = .next { s with rspValid := true, rspCode := .noStrip, rspData := 0 }) ∧
    (s.alive = true → ¬(s.bufOk = true ∧ idx.toNat < s.numLeds.toNat) →
      exec (.getpix idx) s = .next { s with rspValid := true, rspCode := .ok, rspData := 0 }) ∧
    (s.alive = true → s.bufOk = true → idx.toNat < s.numLeds.toNat →
      ∃ red blue green d,
        s.memRead (3 * idx.toNat) = some red ∧ s.memRead (3 * idx.toNat + 1) = some blue ∧
        s.memRead (3 * idx.toNat + 2) = some green ∧
        d.toNat = red.toNat * 65536 + green.toNat * 256 + blue.toNat ∧
        exec (.getpix idx) s = .next { s with rspValid := true, rspCode := .ok, rspData := d })

/-- R112 and R111: SETBRIGHT stores the level plus one modulo 256, with or without a buffer, and changes nothing else. -/
def Obligations.SetbrightStoresLevelPlusOne : Prop :=
  ∀ (s : State) (level : Byte),
    (s.alive = false →
      exec (.setbright level) s = .next { s with rspValid := true, rspCode := .noStrip, rspData := 0 }) ∧
    (s.alive = true →
      ∃ f : Byte, f.toNat = (level.toNat + 1) % 256 ∧
        exec (.setbright level) s = .next { s with bright := f, rspValid := true, rspCode := .ok, rspData := 0 })

/-- R116: NUMPIX answers the LED count, with or without a buffer, and changes only the response. -/
def Obligations.NumpixReturnsCount : Prop :=
  ∀ s : State,
    (s.alive = false → exec .numpix s = .next { s with rspValid := true, rspCode := .noStrip, rspData := 0 }) ∧
    (s.alive = true →
      ∃ d : Packed, d.toNat = s.numLeds.toNat ∧
        exec .numpix s = .next { s with rspValid := true, rspCode := .ok, rspData := d })

/-- R118: COLOR packs its operands, whether a strip exists or not, and changes only the response. -/
def Obligations.ColorPacksChannels : Prop :=
  ∀ (s : State) (r g b : Byte),
    ∃ d : Packed, d.toNat = r.toNat * 65536 + g.toNat * 256 + b.toNat ∧
      exec (.color r g b) s = .next { s with rspValid := true, rspCode := .ok, rspData := d }

/-- R85: a word whose opcode is 0x0 or 0xB to 0xF decodes to one of the six reserved commands, and each of these answers ILLEGAL in any
state and changes nothing else. -/
def Obligations.ReservedOpcodesAnswerIllegal : Prop :=
  (∀ w : CmdWord, w.toNat / 2 ^ 60 = 0x0 ∨ 0xB ≤ w.toNat / 2 ^ 60 →
    decode w ∈ [Instr.reserved0x0, .reserved0xB, .reserved0xC, .reserved0xD, .reserved0xE, .reserved0xF]) ∧
  (∀ i ∈ [Instr.reserved0x0, .reserved0xB, .reserved0xC, .reserved0xD, .reserved0xE, .reserved0xF], ∀ s : State,
    exec i s = .next { s with rspValid := true, rspCode := .illegal, rspData := 0 })

/-- R210, R211: a command that answers an error code has changed nothing but the response, whose data is 0. -/
def Obligations.ErrorsChangeNothingElse : Prop :=
  ∀ (i : Instr) (s t : State), s.rspValid = false → exec i s = .next t → t.rspValid = true → t.rspCode ≠ .ok →
    t = { s with rspValid := true, rspCode := t.rspCode, rspData := 0 }

/-- R213, R212: which code a command answers. The first matching check wins: reserved, ALREADY, the pin, NO_STRIP, OK. -/
def Obligations.FirstMatchingCheckDecidesTheCode : Prop :=
  ∀ (i : Instr) (s : State), s.rspValid = false →
    ∃ t, exec i s = .next t ∧
      (t.rspValid = false ↔ i = .showFrame ∧ s.alive = true ∧ s.bufOk = true) ∧
      (t.rspValid = true → t.rspCode =
        match i with
        | .reserved0x0 => .illegal
        | .reserved0xB => .illegal
        | .reserved0xC => .illegal
        | .reserved0xD => .illegal
        | .reserved0xE => .illegal
        | .reserved0xF => .illegal
        | .construct _ pinid => if s.alive then .already else if 8 ≤ pinid.toNat then .illegal else .ok
        | .color _ _ _ => .ok
        | .destroy => if s.alive then .ok else .noStrip
        | .beginStrip => if s.alive then .ok else .noStrip
        | .showFrame => if s.alive then .ok else .noStrip
        | .setpixRgb _ _ _ _ => if s.alive then .ok else .noStrip
        | .setpixPacked _ _ => if s.alive then .ok else .noStrip
        | .getpix _ => if s.alive then .ok else .noStrip
        | .setbright _ => if s.alive then .ok else .noStrip
        | .numpix => if s.alive then .ok else .noStrip)

/-! ### Pixels and brightness -/

/-- R108: beyond the last LED, GETPIX returns 0 and both SETPIX commands leave every byte unchanged. -/
def Obligations.OutOfRangePixelIsSilent : Prop :=
  ∀ (s : State) (idx : Idx), s.alive = true → s.numLeds.toNat ≤ idx.toNat →
    (∃ t, exec (.getpix idx) s = .next t ∧ t.rspValid = true ∧ t.rspCode = .ok ∧ t.rspData = 0) ∧
    (∀ r g b, ∃ t, exec (.setpixRgb idx r g b) s = .next t ∧ t.rspCode = .ok ∧ ∀ a, t.buf.read a = s.buf.read a) ∧
    (∀ p, ∃ t, exec (.setpixPacked idx p) s = .next t ∧ t.rspCode = .ok ∧ ∀ a, t.buf.read a = s.buf.read a)

/-- R107: with no scaling, GETPIX after SETPIX_PACKED returns the low 24 bits of the colour. -/
def Obligations.PixelRoundTrip : Prop :=
  ∀ (s : State) (idx : Idx) (c : Packed), Memory.wf s.buf = true →
    s.alive = true → s.bufOk = true → idx.toNat < s.numLeds.toNat → s.bright = 0 →
    ∃ t u, exec (.setpixPacked idx c) s = .next t ∧ exec (.getpix idx) t = .next u ∧
      u.rspValid = true ∧ u.rspCode = .ok ∧ u.rspData = c &&& 0x00FFFFFF

/-- R109: SETBRIGHT does not rescale stored pixels: GETPIX of every index answers after it what it answered before. -/
def Obligations.BrightnessIsNotRetroactive : Prop :=
  ∀ (s : State) (level : Byte) (idx : Idx),
    ∃ t u v, exec (.setbright level) s = .next t ∧ exec (.getpix idx) s = .next u ∧ exec (.getpix idx) t = .next v ∧
      v.rspValid = true ∧ u.rspValid = true ∧ v.rspData = u.rspData ∧ v.rspCode = u.rspCode ∧ t.buf = s.buf

/-- R113 and 90_conflicts.md C2: level 0 turns a white pixel off, level 255 stores it in full. -/
def Obligations.WhitePixelAtBothLevels : Prop :=
  ∀ (s : State) (idx : Idx), Memory.wf s.buf = true → s.alive = true → s.bufOk = true → idx.toNat < s.numLeds.toNat →
    (∃ t u v, exec (.setbright 0) s = .next t ∧ exec (.setpixRgb idx 255 255 255) t = .next u ∧
      exec (.getpix idx) u = .next v ∧ v.rspValid = true ∧ v.rspData = 0x000000) ∧
    (∃ t u v, exec (.setbright 255) s = .next t ∧ exec (.setpixRgb idx 255 255 255) t = .next u ∧
      exec (.getpix idx) u = .next v ∧ v.rspValid = true ∧ v.rspData = 0xFFFFFF)

/-- R110: the laws of `scale` for a factor other than 0. -/
def Obligations.ScaleLaws : Prop :=
  ∀ c f : Byte, f ≠ 0 →
    scale 0 f = 0 ∧
    (scale c f).toNat ≤ c.toNat ∧
    (scale c f = c ↔ c = 0) ∧
    scale c 1 = 0 ∧
    (scale c 128).toNat = c.toNat / 2 ∧
    scale 255 255 = 254 ∧
    (1 ≤ c.toNat → (scale c 255).toNat = c.toNat - 1) ∧
    (∀ d : Byte, c.toNat ≤ d.toNat → (scale c f).toNat ≤ (scale d f).toNat) ∧
    (∀ g : Byte, f.toNat ≤ g.toNat → (scale c f).toNat ≤ (scale c g).toNat)

/-! ### Rules about the whole machine -/

/-- R45: in a cycle without reset, who may change what. A byte counts as changed where a strip's buffer can still be read after the
cycle. -/
def Obligations.OnlyNamedWritersChangeState : Prop :=
  ∀ s t : State, s.pins.rst = false → step s = .next t →
    let accepted (i : Instr) : Prop := s.st = .idle ∧ s.pins.cmdValid = true ∧ decode s.pins.cmdWord = i
    (t.bright ≠ s.bright → (∃ l, accepted (.setbright l)) ∨ ∃ n p, accepted (.construct n p)) ∧
    (∀ a, t.alive = true → t.memRead a ≠ s.memRead a →
      (∃ i r g b, accepted (.setpixRgb i r g b)) ∨ (∃ i p, accepted (.setpixPacked i p)) ∨ ∃ n p, accepted (.construct n p)) ∧
    (t.numLeds ≠ s.numLeds ∨ t.pin ≠ s.pin → ∃ n p, accepted (.construct n p)) ∧
    (t.dir ≠ s.dir → accepted .beginStrip ∨ accepted .destroy) ∧
    (t.lastEnd ≠ s.lastEnd ∨ t.lastValid ≠ s.lastValid → s.st = .done ∨ ∃ n p, accepted (.construct n p)) ∧
    ((accepted .numpix ∨ (∃ i, accepted (.getpix i)) ∨ ∃ r g b, accepted (.color r g b)) →
      t.SameRegisters { s with port := s.extPort, rspValid := t.rspValid, rspCode := t.rspCode, rspData := t.rspData }) ∧
    (accepted .showFrame →
      t.SameRegisters
        { s with st := t.st, port := s.extPort, rspValid := t.rspValid, rspCode := t.rspCode, rspData := t.rspData })

/-- The "written by" column of R42 for the elements R45 does not list (R23, R26, R31, R32, R33): in a cycle without reset, `alive` and
`buf_ok` are changed by CONSTRUCT and DESTROY alone, `st` by SHOW and the sequencer, the progress registers by the sequencer, the snapshots
in WAIT, and the port, beyond its external write, by BEGIN, DESTROY and the phase writes. -/
def Obligations.OnlyNamedWritersChangeStripAndSequencer : Prop :=
  ∀ s t : State, s.pins.rst = false → step s = .next t →
    let accepted (i : Instr) : Prop := s.st = .idle ∧ s.pins.cmdValid = true ∧ decode s.pins.cmdWord = i
    (t.alive ≠ s.alive → (∃ n p, accepted (.construct n p)) ∧ t.alive = true ∨ accepted .destroy ∧ t.alive = false) ∧
    (t.bufOk ≠ s.bufOk → (∃ n p, accepted (.construct n p)) ∨ accepted .destroy ∧ t.bufOk = false) ∧
    (t.st ≠ s.st → accepted .showFrame ∨ s.st ≠ .idle) ∧
    (t.byteIdx ≠ s.byteIdx ∨ t.bitIdx ≠ s.bitIdx ∨ t.curByte ≠ s.curByte ∨ t.cnt ≠ s.cnt → s.st = .wait ∨ s.inFrame) ∧
    (t.snapHi ≠ s.snapHi ∨ t.snapLo ≠ s.snapLo → s.st = .wait) ∧
    (t.port ≠ s.extPort → accepted .beginStrip ∨ accepted .destroy ∨ s.st = .wait ∨ s.inFrame)

/-- R182: between a CONSTRUCT and the next DESTROY or reset the LED count and the pin do not change, in any number of cycles. -/
def Obligations.LedCountAndPinAreImmutable : Prop :=
  ∀ (n : Nat) (s t : State), s.alive = true → s.NoReset n →
    (∀ k < n, ∀ u, runFor k s = .next u →
      ¬(u.st = .idle ∧ u.pins.cmdValid = true ∧ decode u.pins.cmdWord = .destroy)) →
    runFor n s = .next t → t.alive = true ∧ t.numLeds = s.numLeds ∧ t.pin = s.pin

/-- R34, R160, R193: a driven line is high exactly in the high phases. -/
def Obligations.DrivenLineIsHighOnlyInHighPhase : Prop :=
  ∀ s : State, s.Inv → s.dir = .output → s.dout = if s.st = .high then .one else .zero

/-! ### The sequencer -/

/-- R140: the phase lengths under the constraints of R9. -/
def Obligations.PhasesFillTheBitPeriod : Prop :=
  ∀ p : Params, p.Valid →
    th p false = p.t0h ∧ th p true = p.t1h ∧ th p false < th p true ∧
    ∀ b, 1 ≤ th p b ∧ 1 ≤ tl p b ∧ th p b + tl p b = p.tbit

/-- R190: the latch test is a difference modulo 2^32 compared with `LATCH_US`, and holds at once before the first frame. -/
def Obligations.LatchTestIsWrapSafe : Prop :=
  ∀ (s : State) (now : Time),
    s.latchOk now = true ↔
      s.lastValid = false ∨ s.cfg.latchUs ≤ (now.toNat + 2 ^ 32 - s.lastEnd.toNat) % 2 ^ 32

/-- R151, with R146 and R152: one WAIT cycle. It ends exactly when the latch test holds on this cycle's `now_us`; then the snapshots are
taken from the port of this cycle and byte 0 starts, or the frame is empty. -/
def Obligations.WaitCycle : Prop :=
  ∀ s : State, s.pins.rst = false → s.st = .wait → s.alive = true → s.bufOk = true →
    let S' : State := { s with rspValid := false, port := s.extPort }
    let hi : PortWord := s.port ||| ((1 : PortWord) <<< s.pin.toNat)
    let lo : PortWord := s.port &&& ~~~((1 : PortWord) <<< s.pin.toNat)
    (s.latchOk s.pins.nowUs = false → s.StepsTo S') ∧
    (s.latchOk s.pins.nowUs = true → s.numLeds = 0 →
      s.StepsTo { S' with snapHi := hi, snapLo := lo, st := .done }) ∧
    (s.latchOk s.pins.nowUs = true → s.numLeds ≠ 0 →
      ∃ v, s.memRead 0 = some v ∧
        s.StepsTo
          { S' with
            snapHi := hi, snapLo := lo, curByte := v, byteIdx := 0, bitIdx := 7, port := hi,
            cnt := th s.cfg (v.getLsbD 7) - 1, st := .high })

/-- R153: one HIGH cycle. -/
def Obligations.HighCycle : Prop :=
  ∀ s : State, s.pins.rst = false → s.st = .high →
    let S' : State := { s with rspValid := false, port := s.extPort }
    (s.cnt ≠ 0 → s.StepsTo { S' with cnt := s.cnt - 1 }) ∧
    (s.cnt = 0 →
      s.StepsTo { S' with port := s.snapLo, cnt := tl s.cfg (s.curByte.getLsbD s.bitIdx.toNat) - 1, st := .low })

/-- R154, with R152: one LOW cycle. -/
def Obligations.LowCycle : Prop :=
  ∀ s : State, s.pins.rst = false → s.st = .low → s.alive = true → s.bufOk = true →
    let S' : State := { s with rspValid := false, port := s.extPort }
    let more := s.byteIdx.toNat + 1 < 3 * s.numLeds.toNat
    (s.cnt ≠ 0 → s.StepsTo { S' with cnt := s.cnt - 1 }) ∧
    (s.cnt = 0 → s.bitIdx ≠ 0 →
      s.StepsTo
        { S' with
          bitIdx := s.bitIdx - 1, port := s.snapHi,
          cnt := th s.cfg (s.curByte.getLsbD (s.bitIdx.toNat - 1)) - 1, st := .high }) ∧
    (s.cnt = 0 → s.bitIdx = 0 → more → 0 < s.cfg.tByteGap →
      s.StepsTo { S' with cnt := s.cfg.tByteGap - 1, st := .gap }) ∧
    (s.cnt = 0 → s.bitIdx = 0 → more → s.cfg.tByteGap = 0 →
      ∃ v, s.memRead (s.byteIdx.toNat + 1) = some v ∧
        s.StepsTo
          { S' with
            curByte := v, byteIdx := s.byteIdx + 1, bitIdx := 7, port := s.snapHi,
            cnt := th s.cfg (v.getLsbD 7) - 1, st := .high }) ∧
    (s.cnt = 0 → s.bitIdx = 0 → ¬more → s.StepsTo { S' with st := .done })

/-- R155, with R152: one GAP cycle; and no cycle enters GAP when `T_BYTE_GAP = 0`. -/
def Obligations.GapCycle : Prop :=
  (∀ s : State, s.pins.rst = false → s.st = .gap → s.alive = true → s.bufOk = true →
    s.byteIdx.toNat + 1 < 3 * s.numLeds.toNat →
    let S' : State := { s with rspValid := false, port := s.extPort }
    (s.cnt ≠ 0 → s.StepsTo { S' with cnt := s.cnt - 1 }) ∧
    (s.cnt = 0 →
      ∃ v, s.memRead (s.byteIdx.toNat + 1) = some v ∧
        s.StepsTo
          { S' with
            curByte := v, byteIdx := s.byteIdx + 1, bitIdx := 7, port := s.snapHi,
            cnt := th s.cfg (v.getLsbD 7) - 1, st := .high })) ∧
  (∀ s t : State, s.st ≠ .gap → s.cfg.tByteGap = 0 → step s = .next t → t.st ≠ .gap)

/-- R158: the DONE cycle records `now_us`, gives SHOW's response and returns to IDLE; the sequencer writes no port. -/
def Obligations.DoneCycle : Prop :=
  ∀ s : State, s.pins.rst = false → s.st = .done →
    s.StepsTo
      { s with
        port := s.extPort, lastEnd := s.pins.nowUs, lastValid := true, rspValid := true, rspCode := .ok, rspData := 0,
        st := .idle }

/-- R156, R157, R187, R189, R255: SHOW from its acceptance (cycle 0), the latch test first holding in the WAIT cycle number `w` (counted
from 0). WAIT lasts cycles 1 to `w+1`, the crit window is exactly the `frameCycles` cycles from `w+2` on, then comes DONE, and the response
comes in cycle `w + 3 + frameCycles` and in no cycle before; the frame leaves the buffer and the strip as they were (R73). The formula
covers the empty strip, whose `frameCycles` is 0. -/
def Obligations.ShowTimingFromAcceptance : Prop :=
  ∀ (s : State) (w : Nat), s.Inv → s.st = .idle → s.pins.cmdValid = true → decode s.pins.cmdWord = .showFrame →
    s.alive = true → s.bufOk = true → s.NoReset (w + 3 + s.frameCycles) →
    (∀ k < w, s.latchOk (s.inputAt (k + 1)).nowUs = false) → s.latchOk (s.inputAt (w + 1)).nowUs = true →
    (∀ k, 1 ≤ k → k ≤ w + 1 → ∃ u, runFor k s = .next u ∧ u.st = .wait ∧ u.crit = false ∧ u.rspValid = false) ∧
    (∀ c < s.frameCycles, ∃ u, runFor (w + 2 + c) s = .next u ∧ u.crit = true ∧ u.rspValid = false) ∧
    (∃ u, runFor (w + 2 + s.frameCycles) s = .next u ∧ u.st = .done ∧ u.crit = false ∧ u.rspValid = false) ∧
    ∃ u, runFor (w + 3 + s.frameCycles) s = .next u ∧ u.st = .idle ∧ u.cmdReady = true ∧ u.rspValid = true ∧
      u.rspCode = .ok ∧ u.rspData = 0 ∧ u.lastEnd = (s.inputAt (w + 2 + s.frameCycles)).nowUs ∧ u.lastValid = true ∧
      u.buf = s.buf ∧ u.alive = true ∧ u.bufOk = true ∧ u.numLeds = s.numLeds ∧ u.pin = s.pin ∧ u.bright = s.bright ∧
      u.dir = s.dir

/-- R147, R148, R141, R144, R146: the port in every cycle of a frame without external writes, in closed form. `s` is the cycle that leaves
WAIT; cycle `c` of the frame (the first high cycle is 0) is `c + 1` cycles later. -/
def Obligations.FrameWaveformClosedForm : Prop :=
  ∀ s : State, s.Inv → s.st = .wait → s.latchOk s.pins.nowUs = true → s.numLeds ≠ 0 →
    s.NoReset (s.frameCycles + 1) → (∀ k, 1 ≤ k → k ≤ s.frameCycles → (s.inputAt k).extWrEn = false) →
    let hi : PortWord := s.port ||| ((1 : PortWord) <<< s.pin.toNat)
    let lo : PortWord := s.port &&& ~~~((1 : PortWord) <<< s.pin.toNat)
    let inHigh (c : Nat) : Prop :=
      ∃ j < 24 * s.numLeds.toNat, s.bitStart j ≤ c ∧ c < s.bitStart j + th s.cfg (s.bitstream j)
    (∀ c < s.frameCycles, ∃ u, runFor (c + 1) s = .next u ∧ (inHigh c → u.port = hi) ∧ (¬inHigh c → u.port = lo)) ∧
    ∃ u, runFor (s.frameCycles + 1) s = .next u ∧ u.st = .done ∧ u.port = lo

/-- R160, R143, R33: the line in every cycle of a frame, whatever external writes come: high for exactly `TH` cycles from each bit's start
and low otherwise when BEGIN has made the pin an output, not driven at all otherwise. -/
def Obligations.LineWaveformSurvivesExternalWrites : Prop :=
  ∀ s : State, s.Inv → s.st = .wait → s.latchOk s.pins.nowUs = true → s.numLeds ≠ 0 → s.NoReset (s.frameCycles + 1) →
    let inHigh (c : Nat) : Prop :=
      ∃ j < 24 * s.numLeds.toNat, s.bitStart j ≤ c ∧ c < s.bitStart j + th s.cfg (s.bitstream j)
    ∀ c < s.frameCycles, ∃ u, runFor (c + 1) s = .next u ∧
      (s.dir = .input → u.dout = .z) ∧
      (s.dir = .output → inHigh c → u.dout = .one) ∧
      (s.dir = .output → ¬inHigh c → u.dout = .zero)

/-- R78, R251: in a cycle in which the sequencer writes the port, an external write is lost: the next state does not depend on it. -/
def Obligations.PhaseWriteOverridesExternalWrite : Prop :=
  ∀ (s : State) (en : Bool) (mask val : PortWord), s.Inv →
    (s.st = .wait ∧ s.latchOk s.pins.nowUs = true ∧ s.numLeds ≠ 0 ∨
      s.st = .high ∧ s.cnt = 0 ∨
      s.st = .low ∧ s.cnt = 0 ∧ (s.bitIdx ≠ 0 ∨ s.cfg.tByteGap = 0 ∧ s.byteIdx.toNat + 1 < 3 * s.numLeds.toNat) ∨
      s.st = .gap ∧ s.cnt = 0) →
    step { s with pins := { s.pins with extWrEn := en, extWrMask := mask, extWrVal := val } } = step s

/-- R78, R251: external writes of any kind made from the cycle that leaves WAIT (`s`) until the frame's last low phase begins are lost: in
the DONE cycle the port has its snapshot value in every bit. The last low phase, after which no rule writes the port (R154, R158), is left
out of the claim by the last hypothesis (log 13). -/
def Obligations.ExternalWritesBeforeTheLastLowPhaseAreLost : Prop :=
  ∀ s : State, s.Inv → s.st = .wait → s.latchOk s.pins.nowUs = true → s.numLeds ≠ 0 → s.NoReset (s.frameCycles + 1) →
    let lastLow : Nat := tl s.cfg (s.bitstream (24 * s.numLeds.toNat - 1))
    (∀ k ≤ s.frameCycles, s.frameCycles < k + lastLow → (s.inputAt k).extWrEn = false) →
    ∃ u, runFor (s.frameCycles + 1) s = .next u ∧ u.st = .done ∧ u.port = s.port &&& ~~~((1 : PortWord) <<< s.pin.toNat)

/-- R188, R18: the sequencer moves as the diagram says, and IDLE is left only by an accepted SHOW on a strip with a buffer. -/
def Obligations.SequencerFollowsTheDiagram : Prop :=
  ∀ s t : State, s.pins.rst = false → step s = .next t →
    match s.st with
    | .idle =>
      t.st = .idle ∨
        t.st = .wait ∧ s.pins.cmdValid = true ∧ decode s.pins.cmdWord = .showFrame ∧ s.alive = true ∧ s.bufOk = true
    | .wait => t.st = .wait ∨ t.st = .high ∨ t.st = .done
    | .high => t.st = .high ∨ t.st = .low
    | .low => t.st = .low ∨ t.st = .high ∨ t.st = .done ∨ t.st = .gap ∧ 0 < s.cfg.tByteGap
    | .gap => t.st = .gap ∨ t.st = .high
    | .done => t.st = .idle

/-- R149, R109: neither an accepted SHOW nor any cycle of the wait and the frame reads the brightness factor: with another factor the
cycle does the same and leaves that factor in place. -/
def Obligations.FrameIgnoresBrightness : Prop :=
  ∀ (s : State) (f : Byte), s.pins.rst = false →
    (s.st ≠ .idle ∨ s.pins.cmdValid = true ∧ decode s.pins.cmdWord = .showFrame) →
    step { s with bright := f } = mapNext (fun t => { t with bright := f }) (step s)

/-- R191: let a SHOW's DONE cycle `s` sample `now_us = T1`; on the same strip (no reset, no DESTROY) the next SHOW leaves WAIT only in a
cycle `t` whose `now_us` is at least `LATCH_US` past `T1` modulo 2^32, and the first high phase is in the cycle after `t`. -/
def Obligations.SecondFrameWaitsForTheLatch : Prop :=
  ∀ (n : Nat) (s t u : State), s.alive = true → s.st = .done → s.NoReset (n + 2) →
    (∀ k, 1 ≤ k → k ≤ n + 1 → ∀ v, runFor k s = .next v →
      v.st ≠ .done ∧ ¬(v.st = .idle ∧ v.pins.cmdValid = true ∧ decode v.pins.cmdWord = .destroy)) →
    runFor (n + 1) s = .next t → t.st = .wait → step t = .next u → u.st ≠ .wait →
    s.cfg.latchUs ≤ (t.pins.nowUs.toNat + 2 ^ 32 - s.pins.nowUs.toNat) % 2 ^ 32 ∧ (t.numLeds ≠ 0 → u.st = .high)

/-- R249, R220: while the latch test fails, SHOW stays in WAIT, for any number of cycles, and no register but the port can have changed
meanwhile. (That WAIT ends in the cycle in which the test holds is `WaitCycle`.) The last clause, which inputs the cycle reached has, is the
model's own bookkeeping (log 1). -/
def Obligations.WaitLastsWhileLatchFails : Prop :=
  ∀ (n : Nat) (s : State), s.st = .wait → s.rspValid = false → s.NoReset n →
    (∀ k < n, s.latchOk (s.inputAt k).nowUs = false) →
    ∃ t, runFor n s = .next t ∧
      t = { s with port := t.port, pins := t.pins, future := t.future, draws := t.draws } ∧ t.pins = s.inputAt n

/-- R253, R190: in the state a successful CONSTRUCT leaves, the latch test holds whatever `now_us` is. (`FirstShowLeavesWaitAtOnce` follows
the strip to its first SHOW.) -/
def Obligations.FreshStripDoesNotWait : Prop :=
  ∀ (s : State) (n : Idx) (pinid : Byte) (now : Time), s.alive = false → pinid.toNat < 8 →
    ∃ t, exec (.construct n pinid) s = .next t ∧ t.latchOk now = true

/-- R253, R187, R29: after a successful CONSTRUCT and until a first frame is done, whatever commands, inputs and resets come, a SHOW spends
one cycle in WAIT: its first WAIT cycle leads to the first high phase, or to DONE on an empty strip. -/
def Obligations.FirstShowLeavesWaitAtOnce : Prop :=
  ∀ (n : Nat) (s t : State) (c : Idx) (pinid : Byte), s.Inv → s.pins.rst = false → s.st = .idle → s.pins.cmdValid = true →
    decode s.pins.cmdWord = .construct c pinid → s.alive = false → pinid.toNat < 8 →
    (∀ k, 1 ≤ k → k ≤ n + 1 → ∀ v, runFor k s = .next v → v.st ≠ .done) →
    runFor (n + 1) s = .next t → t.st = .wait → t.pins.rst = false →
    ∃ u, step t = .next u ∧ u.st = if t.numLeds = 0 then .done else .high

/-! ### What the host cannot see -/

/-- R21, R44, R63, R183: from two states that agree on everything meaningful, the outputs agree in every later cycle. The sequencer
registers outside a frame, the response without its strobe, the bytes outside the strip and every strip register without a strip never
affect an output. -/
def Obligations.HiddenStateNeverReachesTheHost : Prop :=
  ∀ (n : Nat) (s t : State), s.Inv → t.Inv → SameToHost s t →
    ∃ u v, runFor n s = .next u ∧ runFor n t = .next v ∧ SameToHost u v ∧ u.observe = v.observe
end

