-- ==== Sys2Proof/Laws/Encoding.lean ====
section
/-! SUPPORT. The fields of a word built from its parts (30_encoding.md R80, R88). -/

namespace Sys2Proof

@[simp] theorem fieldOp_cmdWord (op : BitVec 4) (i : Idx) (d : Packed) : fieldOp (cmdWord op i d) = op := by
  ext k hk
  simp only [fieldOp, cmdWord, BitVec.getElem_extractLsb', BitVec.getLsbD_append]
  have h : 60 + k - 32 - 16 - 12 = k := by omega
  simp [show ¬ 60 + k < 32 by omega, show ¬ 60 + k - 32 < 16 by omega, show ¬ 60 + k - 32 - 16 < 12 by omega, h,
    BitVec.getLsbD_eq_getElem hk]

@[simp] theorem fieldIdx_cmdWord (op : BitVec 4) (i : Idx) (d : Packed) : fieldIdx (cmdWord op i d) = i := by
  ext k hk
  simp only [fieldIdx, cmdWord, BitVec.getElem_extractLsb', BitVec.getLsbD_append]
  simp [show ¬ 32 + k < 32 by omega, BitVec.getLsbD_eq_getElem hk]
  omega

@[simp] theorem fieldData_cmdWord (op : BitVec 4) (i : Idx) (d : Packed) : fieldData (cmdWord op i d) = d := by
  ext k hk
  simp only [fieldData, cmdWord, BitVec.getElem_extractLsb', BitVec.getLsbD_append]
  simp [BitVec.getLsbD_eq_getElem hk]
  omega

theorem fieldR_eq (w : CmdWord) : fieldR w = (fieldData w).extractLsb' 16 8 := by
  ext k hk
  simp [fieldR, fieldData]

theorem fieldG_eq (w : CmdWord) : fieldG w = (fieldData w).extractLsb' 8 8 := by
  ext k hk
  simp [fieldG, fieldData]

theorem fieldB_eq (w : CmdWord) : fieldB w = (fieldData w).extractLsb' 0 8 := by
  ext k hk
  simp [fieldB, fieldData]

theorem dataRgb_r (r g b : Byte) : (dataRgb r g b).extractLsb' 16 8 = r := by
  ext k hk
  simp only [dataRgb, BitVec.getElem_extractLsb', BitVec.getLsbD_append]
  simp [show ¬ 16 + k < 8 by omega, show ¬ 16 + k - 8 < 8 by omega, show 16 + k - 8 - 8 = k by omega, hk]

theorem dataRgb_g (r g b : Byte) : (dataRgb r g b).extractLsb' 8 8 = g := by
  ext k hk
  simp only [dataRgb, BitVec.getElem_extractLsb', BitVec.getLsbD_append]
  simp [show ¬ 8 + k < 8 by omega, hk]

theorem dataRgb_b (r g b : Byte) : (dataRgb r g b).extractLsb' 0 8 = b := by
  ext k hk
  simp only [dataRgb, BitVec.getElem_extractLsb', BitVec.getLsbD_append]
  simp [hk]

/-- The bits of a word built from its parts, one by one. -/
theorem getLsbD_cmdWord (op : BitVec 4) (i : Idx) (d : Packed) (k : Nat) :
    (cmdWord op i d).getLsbD k =
      if k < 32 then d.getLsbD k
      else if k < 48 then i.getLsbD (k - 32)
      else if k < 60 then false
      else op.getLsbD (k - 60) := by
  simp only [cmdWord, BitVec.getLsbD_append]
  by_cases h1 : k < 32
  · simp [h1]
  · by_cases h2 : k < 48
    · simp [h1, h2, show k - 32 < 16 by omega]
    · by_cases h3 : k < 60
      · simp [h1, h2, h3, show ¬ k - 32 < 16 by omega, show k - 32 - 16 < 12 by omega]
      · simp [h1, h2, h3, show ¬ k - 32 < 16 by omega, show ¬ k - 32 - 16 < 12 by omega,
          show k - 32 - 16 - 12 = k - 60 by omega]

/-- The bits of a colour's data word, one by one. -/
theorem getLsbD_dataRgb (r g b : Byte) (k : Nat) :
    (dataRgb r g b).getLsbD k =
      if k < 8 then b.getLsbD k
      else if k < 16 then g.getLsbD (k - 8)
      else if k < 24 then r.getLsbD (k - 16)
      else false := by
  simp only [dataRgb, BitVec.getLsbD_append]
  by_cases h1 : k < 8
  · simp [h1]
  · by_cases h2 : k < 16
    · simp [h1, h2, show k - 8 < 8 by omega]
    · by_cases h3 : k < 24
      · simp [h1, h2, h3, show ¬ k - 8 < 8 by omega, show k - 8 - 8 = k - 16 by omega, show k - 16 < 8 by omega]
      · simp [h1, h2, h3, show ¬ k - 8 < 8 by omega, show ¬ k - 8 - 8 < 8 by omega]

/-! ### Built words as numbers -/

theorem toNat_append_eq_add {v w : Nat} (x : BitVec v) (y : BitVec w) : (x ++ y).toNat = x.toNat * 2 ^ w + y.toNat := by
  rw [BitVec.toNat_append, Nat.shiftLeft_eq, Nat.mul_comm, ← Nat.two_pow_add_eq_or_of_lt y.isLt]

theorem dataRgb_toNat (r g b : Byte) : (dataRgb r g b).toNat = r.toNat * 2 ^ 16 + g.toNat * 2 ^ 8 + b.toNat := by
  rw [dataRgb, toNat_append_eq_add, toNat_append_eq_add, toNat_append_eq_add, show (0 : BitVec 8).toNat = 0 from rfl]
  omega

theorem cmdWord_toNat (op : BitVec 4) (i : Idx) (d : Packed) :
    (cmdWord op i d).toNat = op.toNat * 2 ^ 60 + i.toNat * 2 ^ 32 + d.toNat := by
  rw [cmdWord, toNat_append_eq_add, toNat_append_eq_add, toNat_append_eq_add, show (0 : BitVec 12).toNat = 0 from rfl]
  omega

/-- A word built from numbers that fit their fields is the number of the word. -/
theorem cmdWord_ofNat (op : BitVec 4) {i : Nat} (d : Packed) (hi : i < 2 ^ 16) :
    cmdWord op (.ofNat 16 i) d = BitVec.ofNat 64 (op.toNat * 2 ^ 60 + i * 2 ^ 32 + d.toNat) := by
  apply BitVec.eq_of_toNat_eq
  have ho := op.isLt; have hd := d.isLt
  rw [cmdWord_toNat, BitVec.toNat_ofNat, BitVec.toNat_ofNat, Nat.mod_eq_of_lt hi, Nat.mod_eq_of_lt (by omega)]

theorem dataRgb_ofNat {r g b : Nat} (hr : r < 2 ^ 8) (hg : g < 2 ^ 8) (hb : b < 2 ^ 8) :
    (dataRgb (.ofNat 8 r) (.ofNat 8 g) (.ofNat 8 b)).toNat = r * 2 ^ 16 + g * 2 ^ 8 + b := by
  rw [dataRgb_toNat, BitVec.toNat_ofNat, BitVec.toNat_ofNat, BitVec.toNat_ofNat, Nat.mod_eq_of_lt hr, Nat.mod_eq_of_lt hg,
    Nat.mod_eq_of_lt hb]

end Sys2Proof
end

