-- ==== Sys2Proof/Laws/Memory.lean ====
section
/-! SUPPORT. The laws of the pixel buffer's list: read after write, the zero fill, and the canonical form kept by every operation. -/

namespace Sys2Proof.Machine

@[simp] theorem Memory.read_nil (a : Nat) : Memory.read [] a = 0 := rfl

theorem Memory.read_cons (c : Host.Cell) (m : Memory) (a : Nat) :
    Memory.read (c :: m) a = if c.1 = a then c.2 else Memory.read m a := rfl

/-- A canonical list above `lo` lists nothing below it. -/
theorem Memory.read_below {lo a : Nat} {m : Memory} (h : Memory.wfFrom lo m = true) (ha : a < lo) :
    Memory.read m a = 0 := by
  induction m generalizing lo with
  | nil => rfl
  | cons c m ih =>
    simp only [Memory.wfFrom, Bool.and_eq_true, decide_eq_true_eq] at h
    rw [Memory.read_cons, if_neg (by omega), ih h.2 (by omega)]

theorem Memory.wfFrom_mono {lo lo' : Nat} {m : Memory} (h : Memory.wfFrom lo m = true) (hl : lo' ≤ lo) :
    Memory.wfFrom lo' m = true := by
  cases m with
  | nil => rfl
  | cons c m =>
    simp only [Memory.wfFrom, Bool.and_eq_true, decide_eq_true_eq] at h ⊢
    exact ⟨⟨by omega, h.1.2⟩, h.2⟩

theorem Memory.wfFrom_write {lo a : Nat} {m : Memory} (v : Byte) (h : Memory.wfFrom lo m = true) (ha : lo ≤ a) :
    Memory.wfFrom lo (Memory.write m a v) = true := by
  induction m generalizing lo with
  | nil =>
    simp only [Memory.write]
    split
    · rfl
    · next hv => simpa [Memory.wfFrom, ha] using hv
  | cons c m ih =>
    have h' := h
    simp only [Memory.wfFrom, Bool.and_eq_true, decide_eq_true_eq] at h
    simp only [Memory.write]
    split
    · split
      · exact h'
      · next hv =>
        simp only [Memory.wfFrom, Bool.and_eq_true, decide_eq_true_eq]
        exact ⟨⟨ha, hv⟩, ⟨by omega, h.1.2⟩, h.2⟩
    · split
      · split
        · exact Memory.wfFrom_mono h.2 (by omega)
        · next hv =>
          simp only [Memory.wfFrom, Bool.and_eq_true, decide_eq_true_eq]
          exact ⟨⟨ha, hv⟩, by simp_all⟩
      · simp only [Memory.wfFrom, Bool.and_eq_true, decide_eq_true_eq]
        exact ⟨h.1, ih h.2 (by omega)⟩

/-- A write keeps the canonical form. -/
theorem Memory.wf_write {m : Memory} (a : Nat) (v : Byte) (h : m.wf = true) : (m.write a v).wf = true :=
  Memory.wfFrom_write v h (Nat.zero_le a)

theorem Memory.wfFrom_clearBelow {lo : Nat} (n : Nat) {m : Memory} (h : Memory.wfFrom lo m = true) :
    Memory.wfFrom lo (Memory.clearBelow m n) = true := by
  induction m generalizing lo with
  | nil => rfl
  | cons c m ih =>
    simp only [Memory.wfFrom, Bool.and_eq_true, decide_eq_true_eq] at h
    simp only [Memory.clearBelow] at ih ⊢
    rw [List.filter_cons]
    split
    · simp only [Memory.wfFrom, Bool.and_eq_true, decide_eq_true_eq]
      exact ⟨h.1, ih h.2⟩
    · exact Memory.wfFrom_mono (ih h.2) (by omega)

/-- The zero fill keeps the canonical form. -/
theorem Memory.wf_clearBelow {m : Memory} (n : Nat) (h : m.wf = true) : (m.clearBelow n).wf = true :=
  Memory.wfFrom_clearBelow n h

theorem Memory.read_writeFrom {lo a : Nat} {m : Memory} (v : Byte) (b : Nat) (h : Memory.wfFrom lo m = true) :
    Memory.read (Memory.write m a v) b = if a = b then v else Memory.read m b := by
  induction m generalizing lo with
  | nil =>
    simp only [Memory.write]
    split
    · next hv => simp [hv]
    · rfl
  | cons c m ih =>
    simp only [Memory.wfFrom, Bool.and_eq_true, decide_eq_true_eq] at h
    simp only [Memory.write]
    split
    · next hlt =>
      split
      · next hv =>
        by_cases hab : a = b
        · subst hab hv
          have hm : Memory.read m a = 0 := Memory.read_below h.2 (by omega)
          simp [Memory.read_cons, hm, show ¬ c.1 = a by omega]
        · simp [hab]
      · rw [Memory.read_cons]
    · split
      · next hac =>
        subst hac
        split
        · next hv =>
          by_cases hab : c.1 = b
          · subst hab hv
            simp [Memory.read_below h.2 (Nat.lt_succ_self _)]
          · simp [hab, Memory.read_cons]
        · rw [Memory.read_cons, Memory.read_cons]
          split <;> simp_all
      · next hne =>
        rw [Memory.read_cons, Memory.read_cons, ih h.2]
        by_cases hab : a = b
        · subst hab
          simp [Ne.symm hne]
        · simp [hab]

/-- A byte reads as what was last written to it, and a write leaves every other byte alone (20_memory.md R60). -/
theorem Memory.read_write {m : Memory} (a : Nat) (v : Byte) (b : Nat) (h : m.wf = true) :
    (m.write a v).read b = if a = b then v else m.read b :=
  Memory.read_writeFrom v b h

/-- The zero fill below `n`, and nothing else (42_lifecycle_latch.md R181). -/
theorem Memory.read_clearBelow (m : Memory) (n a : Nat) :
    (m.clearBelow n).read a = if a < n then 0 else m.read a := by
  induction m with
  | nil => simp [Memory.clearBelow]
  | cons c m ih =>
    simp only [Memory.clearBelow] at ih ⊢
    rw [List.filter_cons]
    split
    · next hn =>
      simp only [decide_eq_true_eq] at hn
      rw [Memory.read_cons, Memory.read_cons, ih]
      split
      · next hc => simp [show ¬ a < n by omega]
      · rfl
    · next hn =>
      simp only [decide_eq_true_eq] at hn
      rw [ih, Memory.read_cons]
      split
      · rfl
      · next ha => simp [show ¬ c.1 = a by omega]

theorem Memory.mem_clearBelow {m : Memory} {n : Nat} {c : Host.Cell} (h : c ∈ m.clearBelow n) : c ∈ m :=
  List.mem_of_mem_filter h

theorem Memory.mem_write {m : Memory} {a : Nat} {v : Byte} {c : Host.Cell} (h : c ∈ m.write a v) : c.1 = a ∨ c ∈ m := by
  induction m with
  | nil => by_cases hv : v = 0 <;> simp_all [Memory.write]
  | cons d m ih =>
    simp only [Memory.write] at h
    split at h
    · split at h
      · exact .inr h
      · rcases List.mem_cons.mp h with rfl | h
        · exact .inl rfl
        · exact .inr h
    · split at h
      · split at h
        · exact .inr (List.mem_cons_of_mem _ h)
        · rcases List.mem_cons.mp h with rfl | h
          · exact .inl rfl
          · exact .inr (List.mem_cons_of_mem _ h)
      · rcases List.mem_cons.mp h with rfl | h
        · exact .inr List.mem_cons_self
        · rcases ih h with h | h
          · exact .inl h
          · exact .inr (List.mem_cons_of_mem _ h)

/-- The list has no room for two spellings: canonical lists that read alike are equal. -/
theorem Memory.ext_of_wfFrom {lo : Nat} {m m' : Memory} (h : Memory.wfFrom lo m = true) (h' : Memory.wfFrom lo m' = true)
    (hr : ∀ a, m.read a = m'.read a) : m = m' := by
  induction m generalizing lo m' with
  | nil =>
    cases m' with
    | nil => rfl
    | cons d m' =>
      simp only [Memory.wfFrom, Bool.and_eq_true, decide_eq_true_eq] at h'
      have := hr d.1
      simp [Memory.read_cons] at this
      exact absurd this.symm h'.1.2
  | cons c m ih =>
    cases m' with
    | nil =>
      simp only [Memory.wfFrom, Bool.and_eq_true, decide_eq_true_eq] at h
      have := hr c.1
      simp [Memory.read_cons] at this
      exact absurd this h.1.2
    | cons d m' =>
      simp only [Memory.wfFrom, Bool.and_eq_true, decide_eq_true_eq] at h h'
      have hcd : c.1 = d.1 := by
        rcases Nat.lt_trichotomy c.1 d.1 with hlt | heq | hgt
        · have := hr c.1
          rw [Memory.read_cons, if_pos rfl, Memory.read_cons, if_neg (by omega),
            Memory.read_below h'.2 (by omega)] at this
          exact absurd this h.1.2
        · exact heq
        · have := hr d.1
          rw [Memory.read_cons, if_neg (by omega), Memory.read_below h.2 (by omega), Memory.read_cons, if_pos rfl] at this
          exact absurd this.symm h'.1.2
      have hv : c.2 = d.2 := by
        have := hr c.1
        simpa [Memory.read_cons, hcd] using this
      have hm : m = m' := by
        refine ih h.2 (hcd ▸ h'.2) fun a => ?_
        by_cases ha : a = c.1
        · subst ha
          rw [Memory.read_below h.2 (by omega), Memory.read_below h'.2 (by omega)]
        · have := hr a
          rwa [Memory.read_cons, Memory.read_cons, if_neg (by omega), if_neg (by omega)] at this
      rw [hm, show c = d from Prod.ext hcd hv]

theorem Memory.ext_of_wf {m m' : Memory} (h : m.wf = true) (h' : m'.wf = true) (hr : ∀ a, m.read a = m'.read a) :
    m = m' := Memory.ext_of_wfFrom h h' hr

/-- The reset state's buffer is canonical. -/
theorem State.reset_buf_wf : Memory.wf State.reset.buf = true := rfl

/-- A buffer write keeps the buffer canonical. -/
theorem State.memWrite_wf {s s' : State} {a : Nat} {v : Byte} (h : s.memWrite a v = some s') (hw : Memory.wf s.buf = true) :
    Memory.wf s'.buf = true := by
  unfold State.memWrite at h
  split at h
  · cases h; exact Memory.wf_write a v hw
  · cases h

/-! ### The primitives on the state -/

theorem State.memRead_of_hasByte {s : State} {a : Nat} (h : s.hasByte a = true) : s.memRead a = some (s.buf.read a) := by
  simp [State.memRead, h]

theorem State.memWrite_of_hasByte {s : State} {a : Nat} (v : Byte) (h : s.hasByte a = true) :
    s.memWrite a v = some { s with buf := s.buf.write a v } := by
  simp [State.memWrite, h]

theorem State.hasByte_eq_true {s : State} {a : Nat} :
    s.hasByte a = true ↔ s.alive = true ∧ s.bufOk = true ∧ a < s.nb := by
  simp [State.hasByte, and_assoc]

theorem State.inRange_eq_true {s : State} {i : Idx} :
    s.inRange i = true ↔ s.alive = true ∧ s.bufOk = true ∧ i.toNat < s.numLeds.toNat := by
  simp [State.inRange, and_assoc]

/-- The three addresses of an LED in range are bytes of the strip. -/
theorem State.hasByte_pixelAddr {s : State} {i : Idx} {k : Nat} (h : s.inRange i = true) (hk : k < 3) :
    s.hasByte (pixelAddr i k) = true := by
  rw [State.inRange_eq_true] at h
  rw [State.hasByte_eq_true]
  refine ⟨h.1, h.2.1, ?_⟩
  simp only [pixelAddr, State.nb]
  omega

/-- In range the triplet is written, whole. -/
theorem State.writeTriplet_inRange {s : State} {i : Idx} (red blue green : Byte) (h : s.inRange i = true) :
    s.writeTriplet i red blue green =
      some { s with buf := ((s.buf.write (pixelAddr i 0) red).write (pixelAddr i 1) blue).write (pixelAddr i 2) green } := by
  have hb (m : Memory) (k : Nat) (hk : k < 3) : ({ s with buf := m } : State).hasByte (pixelAddr i k) = true :=
    State.hasByte_pixelAddr (s := { s with buf := m }) h hk
  rw [State.writeTriplet, State.memWrite_of_hasByte red (hb s.buf 0 (by omega))]
  simp only
  rw [State.memWrite_of_hasByte blue (hb _ 1 (by omega))]
  exact State.memWrite_of_hasByte green (hb _ 2 (by omega))

theorem State.readTriplet_inRange {s : State} {i : Idx} (h : s.inRange i = true) :
    s.readTriplet i =
      some (pack (s.buf.read (pixelAddr i 0)) (s.buf.read (pixelAddr i 2)) (s.buf.read (pixelAddr i 1))) := by
  simp [State.readTriplet, State.memRead_of_hasByte, State.hasByte_pixelAddr h]

end Sys2Proof.Machine
end

