-- ==== Sys2Proof/Laws/State.lean ====
section
/-! SUPPORT. One lemma per field per named update of the state, so that no proof unfolds a record update. -/

namespace Sys2Proof.Machine

/-! ### `State.respond` -/

@[simp] theorem State.respond_alive (s : State) (c : RspCode) (d : Packed) : (s.respond c d).alive = s.alive := rfl
@[simp] theorem State.respond_numLeds (s : State) (c : RspCode) (d : Packed) : (s.respond c d).numLeds = s.numLeds := rfl
@[simp] theorem State.respond_pin (s : State) (c : RspCode) (d : Packed) : (s.respond c d).pin = s.pin := rfl
@[simp] theorem State.respond_bufOk (s : State) (c : RspCode) (d : Packed) : (s.respond c d).bufOk = s.bufOk := rfl
@[simp] theorem State.respond_bright (s : State) (c : RspCode) (d : Packed) : (s.respond c d).bright = s.bright := rfl
@[simp] theorem State.respond_lastEnd (s : State) (c : RspCode) (d : Packed) : (s.respond c d).lastEnd = s.lastEnd := rfl
@[simp] theorem State.respond_lastValid (s : State) (c : RspCode) (d : Packed) : (s.respond c d).lastValid = s.lastValid := rfl
@[simp] theorem State.respond_dir (s : State) (c : RspCode) (d : Packed) : (s.respond c d).dir = s.dir := rfl
@[simp] theorem State.respond_st (s : State) (c : RspCode) (d : Packed) : (s.respond c d).st = s.st := rfl
@[simp] theorem State.respond_byteIdx (s : State) (c : RspCode) (d : Packed) : (s.respond c d).byteIdx = s.byteIdx := rfl
@[simp] theorem State.respond_bitIdx (s : State) (c : RspCode) (d : Packed) : (s.respond c d).bitIdx = s.bitIdx := rfl
@[simp] theorem State.respond_curByte (s : State) (c : RspCode) (d : Packed) : (s.respond c d).curByte = s.curByte := rfl
@[simp] theorem State.respond_cnt (s : State) (c : RspCode) (d : Packed) : (s.respond c d).cnt = s.cnt := rfl
@[simp] theorem State.respond_snapHi (s : State) (c : RspCode) (d : Packed) : (s.respond c d).snapHi = s.snapHi := rfl
@[simp] theorem State.respond_snapLo (s : State) (c : RspCode) (d : Packed) : (s.respond c d).snapLo = s.snapLo := rfl
@[simp] theorem State.respond_port (s : State) (c : RspCode) (d : Packed) : (s.respond c d).port = s.port := rfl
@[simp] theorem State.respond_rspValid (s : State) (c : RspCode) (d : Packed) : (s.respond c d).rspValid = true := rfl
@[simp] theorem State.respond_rspData (s : State) (c : RspCode) (d : Packed) : (s.respond c d).rspData = d := rfl
@[simp] theorem State.respond_rspCode (s : State) (c : RspCode) (d : Packed) : (s.respond c d).rspCode = c := rfl
@[simp] theorem State.respond_buf (s : State) (c : RspCode) (d : Packed) : (s.respond c d).buf = s.buf := rfl
@[simp] theorem State.respond_pins (s : State) (c : RspCode) (d : Packed) : (s.respond c d).pins = s.pins := rfl
@[simp] theorem State.respond_future (s : State) (c : RspCode) (d : Packed) : (s.respond c d).future = s.future := rfl
@[simp] theorem State.respond_draws (s : State) (c : RspCode) (d : Packed) : (s.respond c d).draws = s.draws := rfl
@[simp] theorem State.respond_cfg (s : State) (c : RspCode) (d : Packed) : (s.respond c d).cfg = s.cfg := rfl

/-! ### `State.clearPinBit` -/

@[simp] theorem State.clearPinBit_alive (s : State) : s.clearPinBit.alive = s.alive := rfl
@[simp] theorem State.clearPinBit_numLeds (s : State) : s.clearPinBit.numLeds = s.numLeds := rfl
@[simp] theorem State.clearPinBit_pin (s : State) : s.clearPinBit.pin = s.pin := rfl
@[simp] theorem State.clearPinBit_bufOk (s : State) : s.clearPinBit.bufOk = s.bufOk := rfl
@[simp] theorem State.clearPinBit_bright (s : State) : s.clearPinBit.bright = s.bright := rfl
@[simp] theorem State.clearPinBit_lastEnd (s : State) : s.clearPinBit.lastEnd = s.lastEnd := rfl
@[simp] theorem State.clearPinBit_lastValid (s : State) : s.clearPinBit.lastValid = s.lastValid := rfl
@[simp] theorem State.clearPinBit_dir (s : State) : s.clearPinBit.dir = s.dir := rfl
@[simp] theorem State.clearPinBit_st (s : State) : s.clearPinBit.st = s.st := rfl
@[simp] theorem State.clearPinBit_byteIdx (s : State) : s.clearPinBit.byteIdx = s.byteIdx := rfl
@[simp] theorem State.clearPinBit_bitIdx (s : State) : s.clearPinBit.bitIdx = s.bitIdx := rfl
@[simp] theorem State.clearPinBit_curByte (s : State) : s.clearPinBit.curByte = s.curByte := rfl
@[simp] theorem State.clearPinBit_cnt (s : State) : s.clearPinBit.cnt = s.cnt := rfl
@[simp] theorem State.clearPinBit_snapHi (s : State) : s.clearPinBit.snapHi = s.snapHi := rfl
@[simp] theorem State.clearPinBit_snapLo (s : State) : s.clearPinBit.snapLo = s.snapLo := rfl
@[simp] theorem State.clearPinBit_port (s : State) : s.clearPinBit.port = s.port &&& ~~~s.pmask := rfl
@[simp] theorem State.clearPinBit_rspValid (s : State) : s.clearPinBit.rspValid = s.rspValid := rfl
@[simp] theorem State.clearPinBit_rspData (s : State) : s.clearPinBit.rspData = s.rspData := rfl
@[simp] theorem State.clearPinBit_rspCode (s : State) : s.clearPinBit.rspCode = s.rspCode := rfl
@[simp] theorem State.clearPinBit_buf (s : State) : s.clearPinBit.buf = s.buf := rfl
@[simp] theorem State.clearPinBit_pins (s : State) : s.clearPinBit.pins = s.pins := rfl
@[simp] theorem State.clearPinBit_future (s : State) : s.clearPinBit.future = s.future := rfl
@[simp] theorem State.clearPinBit_draws (s : State) : s.clearPinBit.draws = s.draws := rfl
@[simp] theorem State.clearPinBit_cfg (s : State) : s.clearPinBit.cfg = s.cfg := rfl

/-! ### `State.extWrite` -/

@[simp] theorem State.extWrite_alive (s : State) : s.extWrite.alive = s.alive := rfl
@[simp] theorem State.extWrite_numLeds (s : State) : s.extWrite.numLeds = s.numLeds := rfl
@[simp] theorem State.extWrite_pin (s : State) : s.extWrite.pin = s.pin := rfl
@[simp] theorem State.extWrite_bufOk (s : State) : s.extWrite.bufOk = s.bufOk := rfl
@[simp] theorem State.extWrite_bright (s : State) : s.extWrite.bright = s.bright := rfl
@[simp] theorem State.extWrite_lastEnd (s : State) : s.extWrite.lastEnd = s.lastEnd := rfl
@[simp] theorem State.extWrite_lastValid (s : State) : s.extWrite.lastValid = s.lastValid := rfl
@[simp] theorem State.extWrite_dir (s : State) : s.extWrite.dir = s.dir := rfl
@[simp] theorem State.extWrite_st (s : State) : s.extWrite.st = s.st := rfl
@[simp] theorem State.extWrite_byteIdx (s : State) : s.extWrite.byteIdx = s.byteIdx := rfl
@[simp] theorem State.extWrite_bitIdx (s : State) : s.extWrite.bitIdx = s.bitIdx := rfl
@[simp] theorem State.extWrite_curByte (s : State) : s.extWrite.curByte = s.curByte := rfl
@[simp] theorem State.extWrite_cnt (s : State) : s.extWrite.cnt = s.cnt := rfl
@[simp] theorem State.extWrite_snapHi (s : State) : s.extWrite.snapHi = s.snapHi := rfl
@[simp] theorem State.extWrite_snapLo (s : State) : s.extWrite.snapLo = s.snapLo := rfl
@[simp] theorem State.extWrite_port (s : State) : s.extWrite.port = s.extPort := rfl
@[simp] theorem State.extWrite_rspValid (s : State) : s.extWrite.rspValid = s.rspValid := rfl
@[simp] theorem State.extWrite_rspData (s : State) : s.extWrite.rspData = s.rspData := rfl
@[simp] theorem State.extWrite_rspCode (s : State) : s.extWrite.rspCode = s.rspCode := rfl
@[simp] theorem State.extWrite_buf (s : State) : s.extWrite.buf = s.buf := rfl
@[simp] theorem State.extWrite_pins (s : State) : s.extWrite.pins = s.pins := rfl
@[simp] theorem State.extWrite_future (s : State) : s.extWrite.future = s.future := rfl
@[simp] theorem State.extWrite_draws (s : State) : s.extWrite.draws = s.draws := rfl
@[simp] theorem State.extWrite_cfg (s : State) : s.extWrite.cfg = s.cfg := rfl

/-! ### `State.beginCycle` -/

@[simp] theorem State.beginCycle_alive (s : State) : s.beginCycle.alive = s.alive := rfl
@[simp] theorem State.beginCycle_numLeds (s : State) : s.beginCycle.numLeds = s.numLeds := rfl
@[simp] theorem State.beginCycle_pin (s : State) : s.beginCycle.pin = s.pin := rfl
@[simp] theorem State.beginCycle_bufOk (s : State) : s.beginCycle.bufOk = s.bufOk := rfl
@[simp] theorem State.beginCycle_bright (s : State) : s.beginCycle.bright = s.bright := rfl
@[simp] theorem State.beginCycle_lastEnd (s : State) : s.beginCycle.lastEnd = s.lastEnd := rfl
@[simp] theorem State.beginCycle_lastValid (s : State) : s.beginCycle.lastValid = s.lastValid := rfl
@[simp] theorem State.beginCycle_dir (s : State) : s.beginCycle.dir = s.dir := rfl
@[simp] theorem State.beginCycle_st (s : State) : s.beginCycle.st = s.st := rfl
@[simp] theorem State.beginCycle_byteIdx (s : State) : s.beginCycle.byteIdx = s.byteIdx := rfl
@[simp] theorem State.beginCycle_bitIdx (s : State) : s.beginCycle.bitIdx = s.bitIdx := rfl
@[simp] theorem State.beginCycle_curByte (s : State) : s.beginCycle.curByte = s.curByte := rfl
@[simp] theorem State.beginCycle_cnt (s : State) : s.beginCycle.cnt = s.cnt := rfl
@[simp] theorem State.beginCycle_snapHi (s : State) : s.beginCycle.snapHi = s.snapHi := rfl
@[simp] theorem State.beginCycle_snapLo (s : State) : s.beginCycle.snapLo = s.snapLo := rfl
@[simp] theorem State.beginCycle_port (s : State) : s.beginCycle.port = s.extPort := rfl
@[simp] theorem State.beginCycle_rspValid (s : State) : s.beginCycle.rspValid = false := rfl
@[simp] theorem State.beginCycle_rspData (s : State) : s.beginCycle.rspData = s.rspData := rfl
@[simp] theorem State.beginCycle_rspCode (s : State) : s.beginCycle.rspCode = s.rspCode := rfl
@[simp] theorem State.beginCycle_buf (s : State) : s.beginCycle.buf = s.buf := rfl
@[simp] theorem State.beginCycle_pins (s : State) : s.beginCycle.pins = s.pins := rfl
@[simp] theorem State.beginCycle_future (s : State) : s.beginCycle.future = s.future := rfl
@[simp] theorem State.beginCycle_draws (s : State) : s.beginCycle.draws = s.draws := rfl
@[simp] theorem State.beginCycle_cfg (s : State) : s.beginCycle.cfg = s.cfg := rfl

/-! ### `State.nextInputs` -/

@[simp] theorem State.nextInputs_alive (s : State) : s.nextInputs.alive = s.alive := rfl
@[simp] theorem State.nextInputs_numLeds (s : State) : s.nextInputs.numLeds = s.numLeds := rfl
@[simp] theorem State.nextInputs_pin (s : State) : s.nextInputs.pin = s.pin := rfl
@[simp] theorem State.nextInputs_bufOk (s : State) : s.nextInputs.bufOk = s.bufOk := rfl
@[simp] theorem State.nextInputs_bright (s : State) : s.nextInputs.bright = s.bright := rfl
@[simp] theorem State.nextInputs_lastEnd (s : State) : s.nextInputs.lastEnd = s.lastEnd := rfl
@[simp] theorem State.nextInputs_lastValid (s : State) : s.nextInputs.lastValid = s.lastValid := rfl
@[simp] theorem State.nextInputs_dir (s : State) : s.nextInputs.dir = s.dir := rfl
@[simp] theorem State.nextInputs_st (s : State) : s.nextInputs.st = s.st := rfl
@[simp] theorem State.nextInputs_byteIdx (s : State) : s.nextInputs.byteIdx = s.byteIdx := rfl
@[simp] theorem State.nextInputs_bitIdx (s : State) : s.nextInputs.bitIdx = s.bitIdx := rfl
@[simp] theorem State.nextInputs_curByte (s : State) : s.nextInputs.curByte = s.curByte := rfl
@[simp] theorem State.nextInputs_cnt (s : State) : s.nextInputs.cnt = s.cnt := rfl
@[simp] theorem State.nextInputs_snapHi (s : State) : s.nextInputs.snapHi = s.snapHi := rfl
@[simp] theorem State.nextInputs_snapLo (s : State) : s.nextInputs.snapLo = s.snapLo := rfl
@[simp] theorem State.nextInputs_port (s : State) : s.nextInputs.port = s.port := rfl
@[simp] theorem State.nextInputs_rspValid (s : State) : s.nextInputs.rspValid = s.rspValid := rfl
@[simp] theorem State.nextInputs_rspData (s : State) : s.nextInputs.rspData = s.rspData := rfl
@[simp] theorem State.nextInputs_rspCode (s : State) : s.nextInputs.rspCode = s.rspCode := rfl
@[simp] theorem State.nextInputs_buf (s : State) : s.nextInputs.buf = s.buf := rfl
@[simp] theorem State.nextInputs_pins (s : State) : s.nextInputs.pins = s.nextPins := rfl
@[simp] theorem State.nextInputs_future (s : State) : s.nextInputs.future = s.future.tail := rfl
@[simp] theorem State.nextInputs_draws (s : State) : s.nextInputs.draws = s.nextDraws := rfl
@[simp] theorem State.nextInputs_cfg (s : State) : s.nextInputs.cfg = s.cfg := rfl

/-! ### `State.resetCycle` -/

@[simp] theorem State.resetCycle_alive (s : State) : s.resetCycle.alive = false := rfl
@[simp] theorem State.resetCycle_numLeds (s : State) : s.resetCycle.numLeds = 0 := rfl
@[simp] theorem State.resetCycle_pin (s : State) : s.resetCycle.pin = 0 := rfl
@[simp] theorem State.resetCycle_bufOk (s : State) : s.resetCycle.bufOk = false := rfl
@[simp] theorem State.resetCycle_bright (s : State) : s.resetCycle.bright = 0 := rfl
@[simp] theorem State.resetCycle_lastEnd (s : State) : s.resetCycle.lastEnd = 0 := rfl
@[simp] theorem State.resetCycle_lastValid (s : State) : s.resetCycle.lastValid = false := rfl
@[simp] theorem State.resetCycle_dir (s : State) : s.resetCycle.dir = .input := rfl
@[simp] theorem State.resetCycle_st (s : State) : s.resetCycle.st = .idle := rfl
@[simp] theorem State.resetCycle_byteIdx (s : State) : s.resetCycle.byteIdx = 0 := rfl
@[simp] theorem State.resetCycle_bitIdx (s : State) : s.resetCycle.bitIdx = 0 := rfl
@[simp] theorem State.resetCycle_curByte (s : State) : s.resetCycle.curByte = 0 := rfl
@[simp] theorem State.resetCycle_cnt (s : State) : s.resetCycle.cnt = 0 := rfl
@[simp] theorem State.resetCycle_snapHi (s : State) : s.resetCycle.snapHi = 0 := rfl
@[simp] theorem State.resetCycle_snapLo (s : State) : s.resetCycle.snapLo = 0 := rfl
@[simp] theorem State.resetCycle_port (s : State) : s.resetCycle.port = 0 := rfl
@[simp] theorem State.resetCycle_rspValid (s : State) : s.resetCycle.rspValid = false := rfl
@[simp] theorem State.resetCycle_rspData (s : State) : s.resetCycle.rspData = 0 := rfl
@[simp] theorem State.resetCycle_rspCode (s : State) : s.resetCycle.rspCode = .ok := rfl
@[simp] theorem State.resetCycle_buf (s : State) : s.resetCycle.buf = [] := rfl
@[simp] theorem State.resetCycle_pins (s : State) : s.resetCycle.pins = s.nextPins := rfl
@[simp] theorem State.resetCycle_future (s : State) : s.resetCycle.future = s.future.tail := rfl
@[simp] theorem State.resetCycle_draws (s : State) : s.resetCycle.draws = s.nextDraws := rfl
@[simp] theorem State.resetCycle_cfg (s : State) : s.resetCycle.cfg = s.cfg := rfl

/-! ### `State.present` -/

@[simp] theorem State.present_alive (s : State) (w : CmdWord) : (s.present w).alive = s.alive := rfl
@[simp] theorem State.present_numLeds (s : State) (w : CmdWord) : (s.present w).numLeds = s.numLeds := rfl
@[simp] theorem State.present_pin (s : State) (w : CmdWord) : (s.present w).pin = s.pin := rfl
@[simp] theorem State.present_bufOk (s : State) (w : CmdWord) : (s.present w).bufOk = s.bufOk := rfl
@[simp] theorem State.present_bright (s : State) (w : CmdWord) : (s.present w).bright = s.bright := rfl
@[simp] theorem State.present_lastEnd (s : State) (w : CmdWord) : (s.present w).lastEnd = s.lastEnd := rfl
@[simp] theorem State.present_lastValid (s : State) (w : CmdWord) : (s.present w).lastValid = s.lastValid := rfl
@[simp] theorem State.present_dir (s : State) (w : CmdWord) : (s.present w).dir = s.dir := rfl
@[simp] theorem State.present_st (s : State) (w : CmdWord) : (s.present w).st = .idle := rfl
@[simp] theorem State.present_byteIdx (s : State) (w : CmdWord) : (s.present w).byteIdx = s.byteIdx := rfl
@[simp] theorem State.present_bitIdx (s : State) (w : CmdWord) : (s.present w).bitIdx = s.bitIdx := rfl
@[simp] theorem State.present_curByte (s : State) (w : CmdWord) : (s.present w).curByte = s.curByte := rfl
@[simp] theorem State.present_cnt (s : State) (w : CmdWord) : (s.present w).cnt = s.cnt := rfl
@[simp] theorem State.present_snapHi (s : State) (w : CmdWord) : (s.present w).snapHi = s.snapHi := rfl
@[simp] theorem State.present_snapLo (s : State) (w : CmdWord) : (s.present w).snapLo = s.snapLo := rfl
@[simp] theorem State.present_port (s : State) (w : CmdWord) : (s.present w).port = s.port := rfl
@[simp] theorem State.present_rspValid (s : State) (w : CmdWord) : (s.present w).rspValid = s.rspValid := rfl
@[simp] theorem State.present_rspData (s : State) (w : CmdWord) : (s.present w).rspData = s.rspData := rfl
@[simp] theorem State.present_rspCode (s : State) (w : CmdWord) : (s.present w).rspCode = s.rspCode := rfl
@[simp] theorem State.present_buf (s : State) (w : CmdWord) : (s.present w).buf = s.buf := rfl
@[simp] theorem State.present_pins (s : State) (w : CmdWord) : (s.present w).pins = { s.pins with rst := false, cmdValid := true, cmdWord := w } := rfl
@[simp] theorem State.present_future (s : State) (w : CmdWord) : (s.present w).future = s.future := rfl
@[simp] theorem State.present_draws (s : State) (w : CmdWord) : (s.present w).draws = s.draws := rfl
@[simp] theorem State.present_cfg (s : State) (w : CmdWord) : (s.present w).cfg = s.cfg := rfl

/-! ### Derived quantities -/

@[simp] theorem State.respond_nb (s : State) (c : RspCode) (d : Packed) : (s.respond c d).nb = s.nb := rfl
@[simp] theorem State.respond_pmask (s : State) (c : RspCode) (d : Packed) : (s.respond c d).pmask = s.pmask := rfl
@[simp] theorem State.clearPinBit_nb (s : State) : s.clearPinBit.nb = s.nb := rfl
@[simp] theorem State.clearPinBit_pmask (s : State) : s.clearPinBit.pmask = s.pmask := rfl
@[simp] theorem State.extWrite_nb (s : State) : s.extWrite.nb = s.nb := rfl
@[simp] theorem State.extWrite_pmask (s : State) : s.extWrite.pmask = s.pmask := rfl
@[simp] theorem State.beginCycle_nb (s : State) : s.beginCycle.nb = s.nb := rfl
@[simp] theorem State.beginCycle_pmask (s : State) : s.beginCycle.pmask = s.pmask := rfl
@[simp] theorem State.nextInputs_nb (s : State) : s.nextInputs.nb = s.nb := rfl
@[simp] theorem State.nextInputs_pmask (s : State) : s.nextInputs.pmask = s.pmask := rfl
@[simp] theorem State.beginCycle_allocates (s : State) (n : Idx) : s.beginCycle.allocates n = s.allocates n := rfl
@[simp] theorem State.beginCycle_inRange (s : State) (i : Idx) : s.beginCycle.inRange i = s.inRange i := rfl

/-- The parameters after reset meet the constraints of 00_scope.md R9. -/
theorem Params.least_valid : Params.least.Valid := by decide
theorem Params.ref_valid : Params.ref.Valid := by decide
theorem config_params_valid : Config.params.Valid := by
  unfold Config.params
  split
  · assumption
  · exact Params.least_valid

end Sys2Proof.Machine
end

