-- ==== Sys2Proof/Laws/Ops.lean ====
section
/-! SUPPORT. What each shared operation and each command can do, said once; later proofs cite these instead of unfolding. -/

namespace Sys2Proof.Machine

@[simp] theorem mapNext_next (f : State → State) (s : State) : mapNext f (.next s) = .next (f s) := rfl
@[simp] theorem mapNext_fault (f : State → State) (r : Fault) : mapNext f (.fault r) = .fault r := rfl
@[simp] theorem mapNext_refused (f : State → State) (r : Refusal) : mapNext f (.refused r) = .refused r := rfl

theorem mapNext_eq_next {f : State → State} {o : Result} {t : State} :
    mapNext f o = .next t ↔ ∃ u, o = .next u ∧ t = f u := by
  cases o <;> simp [eq_comm]

theorem needStrip_alive {s : State} (k : State → Result) (h : s.alive = true) : needStrip s k = k s := by
  simp [needStrip, h]

theorem needStrip_dead {s : State} (k : State → Result) (h : s.alive = false) :
    needStrip s k = .next (s.respond .noStrip 0) := by
  simp [needStrip, raise, h]

/-- The state after a pixel write in range. -/
def State.withPixel (s : State) (idx : Idx) (r g b : Byte) : State :=
  { s with
    buf := ((s.buf.write (pixelAddr idx 0) (scale r s.bright)).write (pixelAddr idx 1) (scale b s.bright)).write
      (pixelAddr idx 2) (scale g s.bright) }

/-- `setPixelColor`, all cases: no strip, in range, out of range. -/
theorem setPixel_eq (idx : Idx) (r g b : Byte) (s : State) :
    setPixel idx r g b s =
      .next
        (if s.alive then
          (if s.inRange idx then (s.withPixel idx r g b).respond .ok 0 else s.respond .ok 0)
        else s.respond .noStrip 0) := by
  by_cases ha : s.alive = true
  · rw [setPixel, needStrip_alive _ ha]
    by_cases hr : s.inRange idx = true
    · simp [hr, ha, State.writeTriplet_inRange _ _ _ hr, answer, State.withPixel]
    · simp [hr, ha, answer]
  · rw [setPixel, needStrip_dead _ (by simpa using ha)]
    simp [ha]

/-- `getPixelColor`, all cases. -/
theorem execGetpix_eq (idx : Idx) (s : State) :
    execGetpix idx s =
      .next
        (if s.alive then
          (if s.inRange idx then
            s.respond .ok
              (pack (s.buf.read (pixelAddr idx 0)) (s.buf.read (pixelAddr idx 2)) (s.buf.read (pixelAddr idx 1)))
          else s.respond .ok 0)
        else s.respond .noStrip 0) := by
  by_cases ha : s.alive = true
  · rw [execGetpix, needStrip_alive _ ha]
    by_cases hr : s.inRange idx = true
    · simp [hr, ha, State.readTriplet_inRange hr, answer]
    · simp [hr, ha, answer]
  · rw [execGetpix, needStrip_dead _ (by simpa using ha)]
    simp [ha]

/-- A packed colour has its top byte zero (40_pixel_buffer.md R102). -/
theorem pack_toNat (r g b : Byte) : (pack r g b).toNat = r.toNat * 65536 + g.toNat * 256 + b.toNat := by
  simp only [pack, BitVec.toNat_append, Nat.shiftLeft_eq]
  have hr := r.isLt; have hg := g.isLt; have hb := b.isLt
  have h0 : (0 : BitVec 8).toNat = 0 := rfl
  rw [h0, ← Nat.shiftLeft_eq, ← Nat.shiftLeft_eq, ← Nat.shiftLeft_eq]
  rw [← Nat.shiftLeft_add_eq_or_of_lt hr, ← Nat.shiftLeft_add_eq_or_of_lt hg, ← Nat.shiftLeft_add_eq_or_of_lt hb]
  simp only [Nat.shiftLeft_eq]
  omega

theorem pack_lt (r g b : Byte) : (pack r g b).toNat < 2 ^ 24 := by
  rw [pack_toNat]
  have hr := r.isLt; have hg := g.isLt; have hb := b.isLt
  omega

/-- What a command can do when it answers: only respond (an error's data being 0), or one of the six effects on other state. -/
inductive ExecCase (i : Instr) (s t : State) : Prop where
  | respond (c : RspCode) (d : Packed) (err : c ≠ .ok → d = 0) (top : d.toNat < 2 ^ 24) (eq : t = s.respond c d)
  | construct (n : Idx) (pinid : Byte) (instr : i = .construct n pinid) (dead : s.alive = false) (legal : pinid.toNat < 8)
    (eq : t =
      ({ s with
        alive := true, numLeds := n, pin := pinid.extractLsb' 0 3, bufOk := s.allocates n,
        buf := if s.allocates n then s.buf.clearBelow (3 * n.toNat) else s.buf,
        bright := 0, lastEnd := 0, lastValid := false } : State).respond .ok 0)
  | destroy (instr : i = .destroy) (alive : s.alive = true)
    (eq : t = ({ s.clearPinBit with dir := .input, alive := false, bufOk := false } : State).respond .ok 0)
  | beginStrip (instr : i = .beginStrip) (alive : s.alive = true)
    (eq : t = ({ s.clearPinBit with dir := .output } : State).respond .ok 0)
  | showFrame (instr : i = .showFrame) (alive : s.alive = true) (buf : s.bufOk = true) (eq : t = { s with st := .wait })
  | pixel (idx : Idx) (r g b : Byte)
    (instr : i = .setpixRgb idx r g b ∨
      ∃ p, i = .setpixPacked idx p ∧ r = unpackR p ∧ g = unpackG p ∧ b = unpackB p)
    (range : s.inRange idx = true) (eq : t = (s.withPixel idx r g b).respond .ok 0)
  | setbright (level : Byte) (instr : i = .setbright level) (alive : s.alive = true)
    (eq : t = ({ s with bright := storedFactor level } : State).respond .ok 0)

theorem setPixel_case {i : Instr} {idx : Idx} {r g b : Byte} {s t : State}
    (hi : i = .setpixRgb idx r g b ∨ ∃ p, i = .setpixPacked idx p ∧ r = unpackR p ∧ g = unpackG p ∧ b = unpackB p)
    (h : setPixel idx r g b s = .next t) : ExecCase i s t := by
  rw [setPixel_eq] at h
  injection h with h
  split at h
  · split at h
    · next hr => exact .pixel idx r g b hi hr h.symm
    · exact .respond .ok 0 (fun _ => rfl) (by decide) h.symm
  · exact .respond .noStrip 0 (fun _ => rfl) (by decide) h.symm

/-- Inversion of `exec`. -/
theorem exec_cases {i : Instr} {s t : State} (h : exec i s = .next t) : ExecCase i s t := by
  have dead {k : State → Result} (ha : s.alive = false) (hk : needStrip s k = .next t) : ExecCase i s t := by
    rw [needStrip_dead k ha] at hk
    injection hk with hk
    exact .respond .noStrip 0 (fun _ => rfl) (by decide) hk.symm
  have alive_or : s.alive = true ∨ s.alive = false := by cases s.alive <;> simp
  cases i with
  | construct n pinid =>
    rw [exec, execConstruct] at h
    rcases alive_or with ha | ha
    · rw [if_pos ha] at h
      injection h with h
      exact .respond .already 0 (fun _ => rfl) (by decide) h.symm
    · rw [if_neg (by simp [ha])] at h
      by_cases hp : Config.portW ≤ pinid.toNat
      · rw [if_pos hp] at h
        injection h with h
        exact .respond .illegal 0 (fun _ => rfl) (by decide) h.symm
      · rw [if_neg hp] at h
        injection h with h
        exact .construct n pinid rfl ha (by simpa [Config.portW] using hp) h.symm
  | destroy =>
    rw [exec, execDestroy] at h
    rcases alive_or with ha | ha
    · rw [needStrip_alive _ ha] at h
      injection h with h
      exact .destroy rfl ha h.symm
    · exact dead ha h
  | beginStrip =>
    rw [exec, execBegin] at h
    rcases alive_or with ha | ha
    · rw [needStrip_alive _ ha] at h
      injection h with h
      exact .beginStrip rfl ha h.symm
    · exact dead ha h
  | showFrame =>
    rw [exec, execShow] at h
    rcases alive_or with ha | ha
    · rw [needStrip_alive _ ha] at h
      split at h
      · next hb => injection h with h; exact .showFrame rfl ha hb h.symm
      · injection h with h; exact .respond .ok 0 (fun _ => rfl) (by decide) h.symm
    · exact dead ha h
  | setpixRgb idx r g b => exact setPixel_case (.inl rfl) h
  | setpixPacked idx p => exact setPixel_case (.inr ⟨p, rfl, rfl, rfl, rfl⟩) h
  | getpix idx =>
    rw [exec, execGetpix_eq] at h
    injection h with h
    split at h
    · split at h
      · exact .respond .ok _ (fun hc => absurd rfl hc) (pack_lt _ _ _) h.symm
      · exact .respond .ok 0 (fun _ => rfl) (by decide) h.symm
    · exact .respond .noStrip 0 (fun _ => rfl) (by decide) h.symm
  | setbright level =>
    rw [exec, execSetbright] at h
    rcases alive_or with ha | ha
    · rw [needStrip_alive _ ha] at h
      injection h with h
      exact .setbright level rfl ha h.symm
    · exact dead ha h
  | numpix =>
    rw [exec, execNumpix] at h
    rcases alive_or with ha | ha
    · rw [needStrip_alive _ ha] at h
      injection h with h
      refine .respond .ok _ (fun hc => absurd rfl hc) ?_ h.symm
      have := s.numLeds.isLt
      rw [BitVec.toNat_setWidth]
      omega
    · exact dead ha h
  | color r g b =>
    injection h with h
    exact .respond .ok _ (fun hc => absurd rfl hc) (pack_lt _ _ _) h.symm
  | reserved0x0 => injection h with h; exact .respond .illegal 0 (fun _ => rfl) (by decide) h.symm
  | reserved0xB => injection h with h; exact .respond .illegal 0 (fun _ => rfl) (by decide) h.symm
  | reserved0xC => injection h with h; exact .respond .illegal 0 (fun _ => rfl) (by decide) h.symm
  | reserved0xD => injection h with h; exact .respond .illegal 0 (fun _ => rfl) (by decide) h.symm
  | reserved0xE => injection h with h; exact .respond .illegal 0 (fun _ => rfl) (by decide) h.symm
  | reserved0xF => injection h with h; exact .respond .illegal 0 (fun _ => rfl) (by decide) h.symm

/-- `LOAD(k)` inside the buffer. -/
theorem load_of_hasByte {k : Nat} {s : State} (hi : PortWord) (s' : State) (h : s.hasByte k = true) :
    load k hi s s' =
      .next
        { s' with
          curByte := s.buf.read k, byteIdx := BitVec.ofNat 18 k, bitIdx := 7, port := hi,
          cnt := th s.cfg ((s.buf.read k).getLsbD 7) - 1, st := .high } := by
  simp [load, State.memRead_of_hasByte h]

/-- `LOAD(k)` answers a next state only inside the buffer. -/
theorem load_eq_next {k : Nat} {s s' t : State} {hi : PortWord} (h : load k hi s s' = .next t) :
    s.hasByte k = true ∧
      t = { s' with
        curByte := s.buf.read k, byteIdx := BitVec.ofNat 18 k, bitIdx := 7, port := hi,
        cnt := th s.cfg ((s.buf.read k).getLsbD 7) - 1, st := .high } := by
  by_cases hb : s.hasByte k = true
  · rw [load_of_hasByte hi s' hb] at h
    injection h with h
    exact ⟨hb, h.symm⟩
  · simp [load, State.memRead, hb] at h

end Sys2Proof.Machine
end

