-- ==== Sys2Proof/Laws/PerInstr.lean ====
section
/-! SUPPORT. Per instruction: the encoding against the instruction's row of spec/opcode_table.json. -/

namespace Sys2Proof.Laws

/-- The row's "match" column; its "mask" is bits 63:60 for every row. -/
def tableMatch : Instr → CmdWord
  | .construct _ _ => 0x1000000000000000
  | .destroy => 0x2000000000000000
  | .beginStrip => 0x3000000000000000
  | .showFrame => 0x4000000000000000
  | .setpixRgb _ _ _ _ => 0x5000000000000000
  | .setpixPacked _ _ => 0x6000000000000000
  | .getpix _ => 0x7000000000000000
  | .setbright _ => 0x8000000000000000
  | .numpix => 0x9000000000000000
  | .color _ _ _ => 0xA000000000000000
  | .reserved0x0 => 0x0000000000000000
  | .reserved0xB => 0xB000000000000000
  | .reserved0xC => 0xC000000000000000
  | .reserved0xD => 0xD000000000000000
  | .reserved0xE => 0xE000000000000000
  | .reserved0xF => 0xF000000000000000

/-- The encoding meets its row's mask and match, and every bit the row marks x is 0. -/
def TableRow.Statement (i : Instr) : Prop :=
  encode i &&& 0xF000000000000000 = tableMatch i ∧ encode i &&& ignoredMask i = 0

/-- The opcode field of a built word, in place. -/
theorem cmdWord_mask (op : BitVec 4) (idx : Idx) (d : Packed) :
    cmdWord op idx d &&& 0xF000000000000000 = op.setWidth 64 <<< 60 := by
  refine BitVec.eq_of_getLsbD_eq fun k hk => ?_
  simp only [BitVec.getLsbD_and, getLsbD_cmdWord, BitVec.getLsbD_shiftLeft, BitVec.getLsbD_setWidth]
  interval_cases k <;> simp

theorem TableRow.construct (n : Idx) (pinid : Byte) : TableRow.Statement (.construct n pinid) := by
  refine ⟨cmdWord_mask _ _ _, ?_⟩
  refine BitVec.eq_of_getLsbD_eq fun k hk => ?_
  simp only [encode, ignoredMask, BitVec.getLsbD_and, getLsbD_cmdWord, getLsbD_dataRgb]
  interval_cases k <;> simp

theorem TableRow.destroy : TableRow.Statement .destroy := by unfold TableRow.Statement; decide

theorem TableRow.beginStrip : TableRow.Statement .beginStrip := by unfold TableRow.Statement; decide

theorem TableRow.showFrame : TableRow.Statement .showFrame := by unfold TableRow.Statement; decide

theorem TableRow.setpixRgb (idx : Idx) (r g b : Byte) : TableRow.Statement (.setpixRgb idx r g b) := by
  refine ⟨cmdWord_mask _ _ _, ?_⟩
  refine BitVec.eq_of_getLsbD_eq fun k hk => ?_
  simp only [encode, ignoredMask, BitVec.getLsbD_and, getLsbD_cmdWord, getLsbD_dataRgb]
  interval_cases k <;> simp

theorem TableRow.setpixPacked (idx : Idx) (packed : Packed) : TableRow.Statement (.setpixPacked idx packed) := by
  refine ⟨cmdWord_mask _ _ _, ?_⟩
  refine BitVec.eq_of_getLsbD_eq fun k hk => ?_
  simp only [encode, ignoredMask, BitVec.getLsbD_and, getLsbD_cmdWord]
  interval_cases k <;> simp

theorem TableRow.getpix (idx : Idx) : TableRow.Statement (.getpix idx) := by
  refine ⟨cmdWord_mask _ _ _, ?_⟩
  refine BitVec.eq_of_getLsbD_eq fun k hk => ?_
  simp only [encode, ignoredMask, BitVec.getLsbD_and, getLsbD_cmdWord]
  interval_cases k <;> simp

theorem TableRow.setbright (level : Byte) : TableRow.Statement (.setbright level) := by
  refine ⟨cmdWord_mask _ _ _, ?_⟩
  refine BitVec.eq_of_getLsbD_eq fun k hk => ?_
  simp only [encode, ignoredMask, BitVec.getLsbD_and, getLsbD_cmdWord, getLsbD_dataRgb]
  interval_cases k <;> simp

theorem TableRow.numpix : TableRow.Statement .numpix := by unfold TableRow.Statement; decide

theorem TableRow.color (r g b : Byte) : TableRow.Statement (.color r g b) := by
  refine ⟨cmdWord_mask _ _ _, ?_⟩
  refine BitVec.eq_of_getLsbD_eq fun k hk => ?_
  simp only [encode, ignoredMask, BitVec.getLsbD_and, getLsbD_cmdWord, getLsbD_dataRgb]
  interval_cases k <;> simp

theorem TableRow.reserved0x0 : TableRow.Statement .reserved0x0 := by unfold TableRow.Statement; decide

theorem TableRow.reserved0xB : TableRow.Statement .reserved0xB := by unfold TableRow.Statement; decide

theorem TableRow.reserved0xC : TableRow.Statement .reserved0xC := by unfold TableRow.Statement; decide

theorem TableRow.reserved0xD : TableRow.Statement .reserved0xD := by unfold TableRow.Statement; decide

theorem TableRow.reserved0xE : TableRow.Statement .reserved0xE := by unfold TableRow.Statement; decide

theorem TableRow.reserved0xF : TableRow.Statement .reserved0xF := by unfold TableRow.Statement; decide

end Sys2Proof.Laws
end

