-- ==== Sys2Proof/Laws/Step.lean ====
section
/-! SUPPORT. What one cycle can do, said once (41_transmitter.md R150). -/

namespace Sys2Proof.Machine

theorem State.accepts_eq_true {s : State} : s.accepts = true ↔ s.st = .idle ∧ s.pins.cmdValid = true := by
  simp [State.accepts, State.cmdReady]

theorem step_of_rst {s : State} (h : s.pins.rst = true) : step s = .next s.resetCycle := by
  simp [step, h]

theorem step_of_accepts {s : State} (hr : s.pins.rst = false) (h : s.accepts = true) :
    step s = mapNext State.nextInputs (exec (decode s.pins.cmdWord) s.beginCycle) := by
  simp [step, hr, h, State.fetch]

theorem step_of_not_accepts {s : State} (hr : s.pins.rst = false) (h : s.accepts = false) :
    step s = mapNext State.nextInputs (sequencer s s.beginCycle) := by
  simp [step, hr, h]

theorem State.accepts_of_busy {s : State} (h : s.st ≠ .idle) : s.accepts = false := by
  cases ha : s.accepts
  · rfl
  · exact absurd (State.accepts_eq_true.mp ha).1 h

/-- Outside IDLE and without reset a cycle is the sequencer's. -/
theorem step_of_busy {s : State} (hr : s.pins.rst = false) (h : s.st ≠ .idle) :
    step s = mapNext State.nextInputs (sequencer s s.beginCycle) :=
  step_of_not_accepts hr (State.accepts_of_busy h)

/-- What a cycle can do when it answers: reset, a command, or the sequencer. -/
inductive StepCase (s t : State) : Prop where
  | reset (rst : s.pins.rst = true) (eq : t = s.resetCycle)
  | command (rst : s.pins.rst = false) (idle : s.st = .idle) (valid : s.pins.cmdValid = true) (u : State)
    (exec : exec (decode s.pins.cmdWord) s.beginCycle = .next u) (eq : t = u.nextInputs)
  | sequencer (rst : s.pins.rst = false) (noCmd : s.st = .idle → s.pins.cmdValid = false) (u : State)
    (seq : sequencer s s.beginCycle = .next u) (eq : t = u.nextInputs)

/-- Inversion of `step`. -/
theorem step_cases {s t : State} (h : step s = .next t) : StepCase s t := by
  cases hr : s.pins.rst
  · cases ha : s.accepts
    · rw [step_of_not_accepts hr ha, mapNext_eq_next] at h
      obtain ⟨u, hu, rfl⟩ := h
      refine .sequencer hr (fun hi => ?_) u hu rfl
      simpa [State.accepts, State.cmdReady, hi] using ha
    · rw [step_of_accepts hr ha, mapNext_eq_next] at h
      obtain ⟨u, hu, rfl⟩ := h
      obtain ⟨hi, hv⟩ := State.accepts_eq_true.mp ha
      exact .command hr hi hv u hu rfl
  · rw [step_of_rst hr] at h
    injection h with h
    exact .reset hr h.symm

/-- What the sequencer can do when it answers (41_transmitter.md R151 to R158). -/
inductive SeqCase (s s' t : State) : Prop where
  | stay (st : s.st = .idle ∨ s.st = .wait ∧ s.latchOk s.pins.nowUs = false) (eq : t = s')
  | waitEmpty (st : s.st = .wait) (ok : s.latchOk s.pins.nowUs = true) (nb : s.nb = 0)
    (eq : t = { s' with snapHi := s.lineHigh, snapLo := s.lineLow, st := .done })
  | waitLoad (st : s.st = .wait) (ok : s.latchOk s.pins.nowUs = true) (nb : s.nb ≠ 0) (byte : s.hasByte 0 = true)
    (eq : t =
      { s' with
        snapHi := s.lineHigh, snapLo := s.lineLow, curByte := s.buf.read 0, byteIdx := 0, bitIdx := 7,
        port := s.lineHigh, cnt := th s.cfg ((s.buf.read 0).getLsbD 7) - 1, st := .high })
  | count (st : s.inFrame) (cnt : s.cnt ≠ 0) (eq : t = { s' with cnt := s.cnt - 1 })
  | fall (st : s.st = .high) (cnt : s.cnt = 0)
    (eq : t = { s' with port := s.snapLo, cnt := tl s.cfg s.curBit - 1, st := .low })
  | nextBit (st : s.st = .low) (cnt : s.cnt = 0) (bit : s.bitIdx ≠ 0)
    (eq : t =
      { s' with
        bitIdx := s.bitIdx - 1, port := s.snapHi,
        cnt := th s.cfg (s.curByte.getLsbD (s.bitIdx - 1).toNat) - 1, st := .high })
  | toGap (st : s.st = .low) (cnt : s.cnt = 0) (bit : s.bitIdx = 0) (more : s.byteIdx.toNat + 1 < s.nb)
    (gap : 0 < s.cfg.tByteGap) (eq : t = { s' with cnt := s.cfg.tByteGap - 1, st := .gap })
  | nextByte
    (st : s.st = .low ∧ s.bitIdx = 0 ∧ s.byteIdx.toNat + 1 < s.nb ∧ s.cfg.tByteGap = 0 ∨ s.st = .gap) (cnt : s.cnt = 0)
    (byte : s.hasByte (s.byteIdx.toNat + 1) = true)
    (eq : t =
      { s' with
        curByte := s.buf.read (s.byteIdx.toNat + 1), byteIdx := BitVec.ofNat 18 (s.byteIdx.toNat + 1), bitIdx := 7,
        port := s.snapHi, cnt := th s.cfg ((s.buf.read (s.byteIdx.toNat + 1)).getLsbD 7) - 1, st := .high })
  | last (st : s.st = .low) (cnt : s.cnt = 0) (bit : s.bitIdx = 0) (more : ¬ s.byteIdx.toNat + 1 < s.nb)
    (eq : t = { s' with st := .done })
  | finish (st : s.st = .done)
    (eq : t = ({ s' with lastEnd := s.pins.nowUs, lastValid := true, st := .idle } : State).respond .ok 0)

/-- Inversion of `sequencer`. -/
theorem sequencer_cases {s s' t : State} (h : sequencer s s' = .next t) : SeqCase s s' t := by
  cases hst : s.st with
  | idle =>
    simp only [sequencer, hst] at h
    injection h with h
    exact .stay (.inl hst) h.symm
  | wait =>
    simp only [sequencer, hst, seqWait] at h
    split at h
    · next hok =>
      split at h
      · next hnb => injection h with h; exact .waitEmpty hst hok hnb h.symm
      · next hnb =>
        obtain ⟨hb, rfl⟩ := load_eq_next h
        exact .waitLoad hst hok hnb hb rfl
    · next hok =>
      injection h with h
      exact .stay (.inr ⟨hst, by simpa using hok⟩) h.symm
  | high =>
    simp only [sequencer, hst, seqHigh] at h
    split at h
    · next hc => injection h with h; exact .count (.inl hst) hc h.symm
    · next hc => injection h with h; exact .fall hst (by simpa using hc) h.symm
  | low =>
    simp only [sequencer, hst, seqLow] at h
    split at h
    · next hc => injection h with h; exact .count (.inr (.inl hst)) hc h.symm
    · next hc =>
      have hc : s.cnt = 0 := by simpa using hc
      split at h
      · next hb => injection h with h; exact .nextBit hst hc hb h.symm
      · next hb =>
        have hb : s.bitIdx = 0 := by simpa using hb
        split at h
        · next hm =>
          split at h
          · next hg => injection h with h; exact .toGap hst hc hb hm hg h.symm
          · next hg =>
            obtain ⟨hy, rfl⟩ := load_eq_next h
            exact .nextByte (.inl ⟨hst, hb, hm, by omega⟩) hc hy rfl
        · next hm => injection h with h; exact .last hst hc hb hm h.symm
  | gap =>
    simp only [sequencer, hst, seqGap] at h
    split at h
    · next hc => injection h with h; exact .count (.inr (.inr hst)) hc h.symm
    · next hc =>
      obtain ⟨hy, rfl⟩ := load_eq_next h
      exact .nextByte (.inr hst) (by simpa using hc) hy rfl
  | done =>
    simp only [sequencer, hst, seqDone, answer] at h
    injection h with h
    exact .finish hst h.symm

/-- The inputs of a later cycle do not depend on what the registers do. -/
theorem State.inputAt_nextInputs (s : State) (k : Nat) : s.nextInputs.inputAt k = s.inputAt (k + 1) := by
  cases hf : s.future with
  | nil => cases k <;> simp [State.inputAt, State.nextInputs, State.nextPins, State.nextDraws, hf, Nat.add_left_comm, Nat.add_comm]
  | cons p ps =>
    cases k with
    | zero => simp [State.inputAt, State.nextInputs, State.nextPins, hf]
    | succ k => simp [State.inputAt, State.nextInputs, State.nextDraws, hf]

/-- Runs, one cycle first. -/
theorem runFor_zero (s : State) : runFor 0 s = .next s := rfl

theorem runFor_step (n : Nat) (s : State) :
    runFor (n + 1) s = match step s with
      | .next u => runFor n u
      | .fault r => .fault r
      | .refused r => .refused r := by
  refine (Host.Core.run.eq_2 Sys2Proof.core s n).trans ?_
  cases h : step s with
  | next u => rw [show Sys2Proof.core.step s = .next u from h]
  | fault r => rw [show Sys2Proof.core.step s = .fault r from h]; rfl
  | refused r => rw [show Sys2Proof.core.step s = .refused r from h]; rfl

theorem runFor_succ {n : Nat} {s t : State} (h : step s = .next t) : runFor (n + 1) s = runFor n t := by
  rw [runFor_step, h]

/-- A run that answers a next state begins with a cycle that does. -/
theorem runFor_succ_eq_next {n : Nat} {s t : State} (h : runFor (n + 1) s = .next t) :
    ∃ u, step s = .next u ∧ runFor n u = .next t := by
  cases hs : step s with
  | next u => exact ⟨u, rfl, by rwa [runFor_succ hs] at h⟩
  | fault r => rw [runFor_step, hs] at h; cases h
  | refused r => rw [runFor_step, hs] at h; cases h

/-- A run in two parts. -/
theorem runFor_add {m n : Nat} {s t : State} (h : runFor m s = .next t) : runFor (m + n) s = runFor n t := by
  induction m generalizing s with
  | zero =>
    injection h with h
    rw [h, Nat.zero_add]
  | succ m ih =>
    obtain ⟨u, hs, hu⟩ := runFor_succ_eq_next h
    rw [Nat.succ_add, runFor_succ hs, ih hu]

/-- What holds of this cycle's inputs and of every listed input holds of every cycle the list reaches. -/
theorem State.inputAt_forall {P : Inputs → Prop} {s : State} (h0 : P s.pins) (h : ∀ p ∈ s.future, P p) {k : Nat}
    (hk : k ≤ s.future.length) : P (s.inputAt k) := by
  cases k with
  | zero => exact h0
  | succ k =>
    have hk' : k < s.future.length := by omega
    simpa [State.inputAt, List.getElem?_eq_getElem hk'] using h _ (List.getElem_mem hk')

theorem State.stepsTo_of_next {s u : State} (h : step s = .next u.nextInputs) : s.StepsTo u := ⟨_, h, rfl⟩

end Sys2Proof.Machine
end

