-- ==== Sys2Proof/Tests/Slice0.lean ====
section
/-! SUPPORT. Tests. Every expected value is the spec's: V-… names a vector of 95_test_vectors.md, R<n> a rule. The last part shows, for
every statement with hypotheses, a concrete state that meets them. -/

namespace Sys2Proof.Tests
open Sys2Proof Sys2Proof.Machine

/-! ### Decoding: words written out from 30_encoding.md R80 (`OP`, `RSV`, `IDX`, `D3`, `R`, `G`, `B`) -/

/-- V-EN-1 -/
theorem test_decode_construct : decode 0x1000000200000003 = .construct 2 3 := by decide
/-- V-EN-17 -/
theorem test_decode_construct_pin7 : decode 0x1000000100000007 = .construct 1 7 := by decide
/-- V-EN-2, V-EN-15 -/
theorem test_decode_destroy : decode 0x2000000000000000 = .destroy ∧ decode 0x2ABCDEF012345678 = .destroy := by decide
/-- V-EN-3 -/
theorem test_decode_begin : decode 0x3000000000000000 = .beginStrip := by decide
/-- V-EN-4 -/
theorem test_decode_show : decode 0x4000000000000000 = .showFrame := by decide
/-- V-EN-5 -/
theorem test_decode_setpixRgb : decode 0x5000000000FF0080 = .setpixRgb 0 0xFF 0x00 0x80 := by decide
/-- R80: each field alone -/
theorem test_decode_setpixRgb_fields : decode 0x5FFF1234FFABCDEF = .setpixRgb 0x1234 0xAB 0xCD 0xEF := by decide
/-- V-EN-6 -/
theorem test_decode_setpixPacked : decode 0x6000000100123456 = .setpixPacked 1 0x00123456 := by decide
/-- V-EN-14 -/
theorem test_decode_setpixPacked_top : decode 0x60000001FF123456 = .setpixPacked 1 0xFF123456 := by decide
/-- V-EN-7 -/
theorem test_decode_getpix : decode 0x7000000100000000 = .getpix 1 := by decide
/-- V-EN-8 -/
theorem test_decode_setbright : decode 0x800000000000007F = .setbright 127 := by decide
/-- V-EN-9 -/
theorem test_decode_numpix : decode 0x9000000000000000 = .numpix := by decide
/-- V-EN-10, V-EN-13 -/
theorem test_decode_color :
    decode 0xA0000000000A141E = .color 10 20 30 ∧ decode 0xAFFFFFFFFFFFFFFF = .color 0xFF 0xFF 0xFF := by decide
/-- V-EN-11 -/
theorem test_decode_reserved0x0 : decode 0x0000000000000000 = .reserved0x0 ∧ decode 0x0FFFFFFFFFFFFFFF = .reserved0x0 := by decide
/-- V-EN-12 -/
theorem test_decode_reserved0xB : decode 0xB000000000000000 = .reserved0xB := by decide
/-- V-EN-12 -/
theorem test_decode_reserved0xC : decode 0xC000000000000000 = .reserved0xC := by decide
/-- V-EN-12 -/
theorem test_decode_reserved0xD : decode 0xD000000000000000 = .reserved0xD := by decide
/-- V-EN-12 -/
theorem test_decode_reserved0xE : decode 0xE000000000000000 = .reserved0xE := by decide
/-- V-EN-12 -/
theorem test_decode_reserved0xF : decode 0xF000000000000000 = .reserved0xF ∧ decode 0xFFFFFFFFFFFFFFFF = .reserved0xF := by decide
/-- R81: one length; spec/opcode_table.json's numbering of the bits. -/
theorem test_decodeTableWord :
    decodeTableWord 64 0x7000000100000000 = some (.getpix 1) ∧ decodeTableWord 72 0x7000000100000000 = none := by decide

/-! ### Well-formedness and the assembler (R88, R89): every operand check refuses -/

theorem test_wf_construct : assemble (.construct 65536 0) = none ∧ assemble (.construct 0 256) = none := by decide
theorem test_wf_setpixRgb :
    assemble (.setpixRgb 65536 0 0 0) = none ∧ assemble (.setpixRgb 0 256 0 0) = none ∧
    assemble (.setpixRgb 0 0 256 0) = none ∧ assemble (.setpixRgb 0 0 0 256) = none := by decide
theorem test_wf_setpixPacked :
    assemble (.setpixPacked 65536 0) = none ∧ assemble (.setpixPacked 0 4294967296) = none := by decide
theorem test_wf_getpix : assemble (.getpix 65536) = none := by decide
theorem test_wf_setbright : assemble (.setbright 256) = none := by decide
theorem test_wf_color :
    assemble (.color 256 0 0) = none ∧ assemble (.color 0 256 0) = none ∧ assemble (.color 0 0 256) = none := by decide
theorem test_wf_clearpix : assemble (.clearpix 65536) = none := by decide
theorem test_wf_setpix : assemble (.setpix 65536 0) = none ∧ assemble (.setpix 0 16777216) = none := by decide
theorem test_wf_init : assemble (.init 65536 0) = none ∧ assemble (.init 0 256) = none := by decide
/-- The largest operands are accepted: a `pinid` of 255 is encodable (R87, R88). -/
theorem test_wf_largest :
    assemble (.construct 65535 255) = some [0x1000FFFF000000FF] ∧
    assemble (.setpixPacked 65535 0xFFFFFFFF) = some [0x6000FFFFFFFFFFFF] := by decide
/-- V-EN-18, V-EN-19, V-EN-20, R89 -/
theorem test_pseudo :
    assemble (.setpix 4 0x0A141E) = some [0x60000004000A141E] ∧ assemble .noscale = some [0x80000000000000FF] ∧
    assemble (.clearpix 3) = some [0x5000000300000000] ∧
    assemble (.init 2 3) = some [0x1000000200000003, 0x3000000000000000] := by decide
/-- R88, R90 -/
theorem test_text : assembleText "SETPIX_RGB    0, 0xFF, 0x00, 0x80 ; red".toList = some [0x5000000000FF0080] := by decide
theorem test_text_refused :
    assembleText "SETBRIGHT 256".toList = none ∧ assembleText "SHOW 1".toList = none ∧ assembleText "GETPIX -1".toList = none ∧
    assembleText "BLINK".toList = none := by decide
/-- R88, "one command per line": a line holds no line break. -/
theorem test_text_one_line :
    assembleText "GETPIX\n1".toList = none ∧ assembleText "SHOW ; a\nSHOW".toList = none ∧
    assembleText "GETPIX\t1".toList = some [0x7000000100000000] := by decide

/-! ### Functions -/

/-- V-SC-1, 4, 6, 7, 8, 9, 14, 16, 17, 18 -/
theorem test_scale :
    scale 17 0 = 17 ∧ scale 255 1 = 0 ∧ scale 255 2 = 1 ∧ scale 127 2 = 0 ∧ scale 128 2 = 1 ∧ scale 200 128 = 100 ∧
    scale 255 255 = 254 ∧ scale 100 200 = 78 ∧ scale 255 129 = 128 ∧ scale 3 86 = 1 := by decide

/-- Under REF (95_test_vectors.md section 0), after reset. -/
def blank : State := { State.reset with cfg := Params.ref, pins := { Inputs.quiet with allocGrant := true } }

/-- A strip of `n` LEDs on pin 3, its line driven low. -/
def strip (n : Idx) : State := { blank with alive := true, numLeds := n, pin := 3, bufOk := true, dir := .output }

/-- A strip whose allocation failed (V-NP-2). -/
def noBuffer : State := { strip 4 with bufOk := false }

def after : Result → Option State
  | .next s => some s
  | .fault _ => none
  | .refused _ => none

/-- The state after the cycle that accepts the word, in what `f` shows of it. -/
def run {α : Type} (s : State) (w : CmdWord) (f : State → α) : Option α := (after (step (s.present w))).map f

/-- The state after one cycle, in what `f` shows of it. -/
def cycle {α : Type} (s : State) (f : State → α) : Option α := (after (step s)).map f

/-- V-LT-2, 3, 4, 7, 8, 9, 10b -/
theorem test_latch :
    (({ strip 1 with lastValid := false, lastEnd := 0xFFFFFFF0 } : State).latchOk 1 = true) ∧
    (({ strip 1 with lastValid := true, lastEnd := 0 } : State).latchOk 50 = true) ∧
    (({ strip 1 with lastValid := true, lastEnd := 0 } : State).latchOk 49 = false) ∧
    (({ strip 1 with lastValid := true, lastEnd := 0xFFFFFFF0 } : State).latchOk 0x22 = true) ∧
    (({ strip 1 with lastValid := true, lastEnd := 0xFFFFFFF0 } : State).latchOk 0x21 = false) ∧
    (({ strip 1 with lastValid := true, lastEnd := 0xFFFFFFF0 } : State).latchOk 0x10 = false) ∧
    (({ strip 1 with lastValid := true, lastEnd := 1000 } : State).latchOk 999 = true) := by decide

/-! ### Commands: one cycle each, from the word -/

/-- What a response shows. -/
def rsp (s : State) : Bool × RspCode × Packed := (s.rspValid, s.rspCode, s.rspData)

/-- V-LC-1, V-LC-2, V-LC-3 -/
theorem test_construct :
    run blank 0x1000000200000003 (fun t => (t.alive, t.numLeds, t.pin, t.bufOk)) = some (true, 2, 3, true) ∧
    run blank 0x1000000200000003 (fun t => (t.dir, rsp t)) = some (.input, true, .ok, 0) ∧
    run blank 0x1000001000000000 State.bufOk = some true ∧ run blank 0x1000001100000000 State.bufOk = some false := by decide
/-- V-LC-6, V-LC-8 -/
theorem test_construct_errors :
    run blank 0x1000000100000008 (fun t => (t.alive, rsp t)) = some (false, true, .illegal, 0) ∧
    run (strip 1) 0x1000000100000009 (fun t => (t.pin, rsp t)) = some (3, true, .already, 0) := by decide
/-- V-LC-10 -/
theorem test_destroy :
    run { strip 1 with port := 0xF8 } 0x2000000000000000 (fun t => (t.dir, t.port, t.dout)) = some (.input, 0xF0, .z) ∧
    run (strip 1) 0x2000000000000000 (fun t => (t.alive, t.bufOk, rsp t)) = some (false, false, true, .ok, 0) := by decide
/-- V-LC-9 -/
theorem test_begin :
    run { strip 2 with port := 0x08, dir := .input } 0x3000000000000000 (fun t => (t.dir, t.port, t.dout, rsp t)) =
      some (.output, 0, .zero, true, .ok, 0) := by decide
/-- V-EX-4 -/
theorem test_begin_and_external_write :
    run { blank with
        alive := true, pins := { Inputs.quiet with extWrEn := true, extWrMask := 0x02, extWrVal := 0x02 } }
      0x3000000000000000 State.port = some 0x02 := by decide
/-- R187 -/
theorem test_show : run (strip 2) 0x4000000000000000 (fun t => (t.st, t.rspValid, t.cmdReady, t.crit)) = some (.wait, false, false, false) := by
  decide
/-- V-FT-6 -/
theorem test_show_without_buffer : run noBuffer 0x4000000000000000 (fun t => (t.st, rsp t)) = some (.idle, true, .ok, 0) := by decide
/-- V-PX-1, V-PX-5 -/
theorem test_setpixRgb :
    run (strip 2) 0x5000000000FF0080 (fun t => ([0, 1, 2, 3].map t.memRead, rsp t)) =
      some ([some 0xFF, some 0x80, some 0, some 0], true, .ok, 0) ∧
    run (strip 2) 0x5000000200090909 (fun t => (t.buf, rsp t)) = some ([], true, .ok, 0) := by decide
/-- V-BR-1 -/
theorem test_setpixRgb_scaled :
    run { strip 2 with bright := 128 } 0x5000000000C86401 (fun t => [0, 1, 2].map t.memRead) =
      some [some 100, some 0, some 50] := by decide
/-- V-PX-2, V-PX-3 -/
theorem test_setpixPacked :
    run (strip 2) 0x6000000100123456 (fun t => [3, 4, 5].map t.memRead) = some [some 0x12, some 0x56, some 0x34] ∧
    run (strip 2) 0x60000001FF123456 (fun t => [3, 4, 5].map t.memRead) = some [some 0x12, some 0x56, some 0x34] := by decide
/-- V-PX-2, V-PX-7 -/
theorem test_getpix :
    run { strip 2 with buf := [(3, 0x12), (4, 0x56), (5, 0x34)] } 0x7000000100000000 rsp = some (true, .ok, 0x00123456) ∧
    run { strip 2 with buf := [(3, 0x12), (6, 0x56)] } 0x7000000200000000 rsp = some (true, .ok, 0) := by decide
/-- V-BR-1, V-BR-4 -/
theorem test_setbright :
    run (strip 1) 0x800000000000007F State.bright = some 128 ∧ run noBuffer 0x80000000000000FF State.bright = some 0 := by decide
/-- V-NP-2, V-NP-5 -/
theorem test_numpix :
    run noBuffer 0x9000000000000000 rsp = some (true, .ok, 4) ∧ run blank 0x9000000000000000 rsp = some (true, .noStrip, 0) := by decide
/-- V-CO-1, V-EN-13 -/
theorem test_color :
    run blank 0xA0000000000A141E rsp = some (true, .ok, 0x000A141E) ∧
    run (strip 1) 0xAFFFFFFFFFFFFFFF rsp = some (true, .ok, 0x00FFFFFF) := by decide
/-- V-ER-3 -/
theorem test_reserved :
    [0x0000000000000000, 0xB000000000000000, 0xC000000000000000, 0xD000000000000000, 0xE000000000000000,
      0xFFFFFFFFFFFFFFFF].map (fun w => (run blank w rsp, run (strip 1) w rsp)) =
    List.replicate 6 (some (true, .illegal, 0), some (true, .illegal, 0)) := by decide
/-- V-ER-1 -/
theorem test_no_strip :
    [0x2000000000000000, 0x3000000000000000, 0x4000000000000000, 0x5000000000FF0080, 0x6000000100123456, 0x7000000100000000,
      0x800000000000007F].map (fun w => run blank w rsp) = List.replicate 7 (some (true, .noStrip, 0)) := by decide

/-! ### The sequencer: one cycle each -/

/-- A strip in its last WAIT cycle; R146 on V-FT-8's port. -/
def waiting : State :=
  { strip 1 with
    st := .wait, pin := 5, port := 0x1C, buf := [(0, 0xA0), (1, 0x01)], pins := { Inputs.quiet with nowUs := 500 } }

/-- V-FT-8, R151, V-BT-2 -/
theorem test_wait_ends :
    cycle waiting (fun t => (t.st, t.snapHi, t.snapLo, t.port, t.cnt)) = some (.high, 0x3C, 0x1C, 0x3C, 3) ∧
    cycle waiting (fun t => (t.curByte, t.byteIdx, t.bitIdx, t.crit, t.dout)) = some (0xA0, 0, 7, true, .one) := by decide
/-- P4, cycle 153; V-FT-1 -/
theorem test_wait_goes_on_or_is_empty :
    cycle { waiting with lastValid := true, lastEnd := 0xFFFFFFF0, pins := { Inputs.quiet with nowUs := 0x10 } } State.st =
      some .wait ∧
    cycle { waiting with numLeds := 0 } (fun t => (t.st, t.port)) = some (.done, 0x1C) := by decide

/-- The first high cycle of a frame of one LED on pin 0 (V-EX-3, cycle 5). -/
def sending : State :=
  { strip 1 with st := .high, pin := 0, port := 0x01, snapHi := 0x01, snapLo := 0x00, bitIdx := 7, cnt := 1 }

/-- V-EX-3, both cycles -/
theorem test_high :
    cycle { sending with pins := { Inputs.quiet with extWrEn := true, extWrMask := 0xFF, extWrVal := 0xFE } }
      (fun t => (t.st, t.port, t.cnt)) = some (.high, 0xFF, 0) ∧
    cycle { sending with port := 0xFF, cnt := 0 } (fun t => (t.st, t.port, t.cnt)) = some (.low, 0x00, 3) := by decide
/-- R154, V-BT-1, V-BT-2: the next bit is a 1 -/
theorem test_low_next_bit :
    cycle { sending with st := .low, port := 0x00, cnt := 0, curByte := 0x40, buf := [(0, 0x40)] }
      (fun t => (t.st, t.port, t.cnt, t.bitIdx)) = some (.high, 0x01, 3, 6) := by decide
/-- R154: the next byte, a gap (V-FT-5, cycle 53), the end of the frame -/
theorem test_low_end_of_byte :
    cycle { sending with st := .low, cnt := 0, bitIdx := 0, buf := [(1, 0x80)] }
      (fun t => (t.st, t.byteIdx, t.curByte, t.bitIdx, t.cnt)) = some (.high, 1, 0x80, 7, 3) ∧
    cycle { sending with st := .low, cnt := 0, bitIdx := 0, cfg := { Params.ref with tByteGap := 3 } }
      (fun t => (t.st, t.cnt)) = some (.gap, 2) ∧
    cycle { sending with st := .low, port := 0, cnt := 0, bitIdx := 0, byteIdx := 2 } (fun t => (t.st, t.port)) =
      some (.done, 0) := by decide
/-- R155, V-FT-5 cycles 55 and 56 -/
theorem test_gap :
    cycle { sending with st := .gap, port := 0, cnt := 0, bitIdx := 0, buf := [(1, 3)], cfg := { Params.ref with tByteGap := 3 } }
      (fun t => (t.st, t.port, t.byteIdx, t.curByte, t.cnt)) = some (.high, 1, 1, 3, 1) := by decide
/-- P3, cycles 156 and 157 -/
theorem test_done :
    cycle { strip 1 with st := .done, port := 0xF0, pins := { Inputs.quiet with nowUs := 656 } }
      (fun t => (t.lastEnd, t.lastValid, t.port)) = some (656, true, 0xF0) ∧
    cycle { strip 1 with st := .done } (fun t => (t.st, rsp t)) = some (.idle, true, .ok, 0) := by decide
/-- V-EX-1, V-EX-2 -/
theorem test_external_write :
    cycle { blank with pins := { Inputs.quiet with extWrEn := true, extWrMask := 0xFF, extWrVal := 0xF0 } } State.port = some 0xF0 ∧
    cycle
      { strip 1 with
        pin := 0, port := 0xF0, pins := { Inputs.quiet with extWrEn := true, extWrMask := 0xFF, extWrVal := 0x0F } }
      State.port = some 0x0E := by decide
/-- V-RS-1, cycle 8 -/
theorem test_reset :
    cycle { sending with pins := { Inputs.quiet with rst := true, cmdValid := true } }
      (fun t => (t.observe, t.alive, t.dir)) = some (⟨none, true, false, false, 0, .z⟩, false, .input) := by decide
/-- The host's view of R39 and R43. -/
theorem test_observe : blank.observe = ⟨none, true, false, false, 0, .z⟩ := by decide
/-- The fetch word is run by the very next step (log 7). -/
theorem test_withFetchWord :
    (after (step (State.reset.withFetchWord 64 0xA0000000000A141E))).map rsp = some (true, .ok, 0x000A141E) := by decide

/-! ### Witnesses: for every statement with hypotheses, a state that meets them all, and one for each of its clauses -/

def lowPhase : State := { sending with st := .low, port := 0x00, cnt := 0 }
def lastBit : State := { lowPhase with bitIdx := 0 }
def gapOf (cnt : Nat) : State :=
  { lastBit with st := .gap, cnt := cnt, cfg := { Params.ref with tByteGap := 3 } }
def finishing : State := { strip 1 with st := .done, lastValid := true, lastEnd := 3 }

/-- `p` of the next state, if there is one. -/
def onNext (p : State → Bool) : Result → Bool
  | .next s => p s
  | .fault _ => true
  | .refused _ => true

theorem onNext_elim {p : State → Bool} {r : Result} {t : State} (h : onNext p r = true) (e : r = .next t) : p t = true := by
  subst e; exact h

/-- A state whose inputs all ask for nothing has no reset and no external write as far as its list reaches. -/
theorem noReset_of_quiet {s : State} (h0 : s.pins.rst = false) (h : ∀ p ∈ s.future, p.rst = false) {n : Nat}
    (hn : n ≤ s.future.length + 1) : s.NoReset n :=
  fun _ hk => State.inputAt_forall (P := fun p => p.rst = false) h0 h (by omega)

theorem test_witness_AssemblerRefusesWideOperands :
    ∃ ws, assemble (.init 65535 255) = some ws := ⟨_, rfl⟩
theorem test_witness_PseudoInstructionsExpand : 16777215 < 2 ^ 24 := by decide
theorem test_witness_ResetFromAnyCycle :
    ({ sending with pins := { Inputs.quiet with rst := true } } : State).pins.rst = true := by decide

theorem test_witness_inv_idle : (strip 2).Inv := by constructor <;> decide
theorem test_witness_inv_wait : waiting.Inv := by constructor <;> decide
theorem test_witness_inv_high : sending.Inv := by constructor <;> decide
theorem test_witness_inv_low : lowPhase.Inv := by constructor <;> decide
theorem test_witness_inv_gap : (gapOf 2).Inv := by constructor <;> decide
theorem test_witness_inv_done : finishing.Inv := by constructor <;> decide

theorem test_witness_StepKeepsInvariant : ∃ t, sending.Inv ∧ step sending = .next t := ⟨_, test_witness_inv_high, rfl⟩
theorem test_witness_RunsNeverStop : waiting.Inv := test_witness_inv_wait
theorem test_witness_StepRunsDecodedCommand :
    let s := (strip 2).present 0x7000000100000000
    s.pins.rst = false ∧ s.st = .idle ∧ s.pins.cmdValid = true ∧ decode s.pins.cmdWord = .getpix 1 := by decide
theorem test_witness_UnsampledInputsDoNotMatter :
    waiting.st ≠ .idle ∧ (sending.st ≠ .wait ∧ sending.st ≠ .done) ∧ blank.pins.cmdValid = false ∧
    ∀ n p, decode (blank.present 0x9000000000000000).pins.cmdWord ≠ .construct n p := by
  refine ⟨by decide, by decide, by decide, fun n p h => ?_⟩
  have e : decode (blank.present 0x9000000000000000).pins.cmdWord = .numpix := by decide
  rw [e] at h; cases h
theorem test_witness_IdleCycleAppliesExternalWrite :
    let s := { strip 2 with pins := { Inputs.quiet with extWrEn := true, extWrMask := 0xFF } }
    s.pins.rst = false ∧ s.st = .idle ∧ s.pins.cmdValid = false := by decide
theorem test_witness_ResponseStrobeLastsOneCycle :
    (∃ t, step finishing = .next t ∧ t.rspValid = true) ∧ ∃ t, step sending = .next t ∧ t.rspValid = false :=
  ⟨⟨_, rfl, rfl⟩, ⟨_, rfl, rfl⟩⟩
theorem test_witness_ConstructMakesStrip :
    (strip 1).alive = true ∧ (blank.alive = false ∧ 8 ≤ (8 : Byte).toNat) ∧ (blank.alive = false ∧ (7 : Byte).toNat < 8) ∧
    (∃ t, exec (.construct 16 7) blank = .next t ∧ t.bufOk = true ∧ 47 < 3 * (16 : Idx).toNat) ∧
    ∃ t, exec (.construct 17 7) blank = .next t ∧ ¬(t.bufOk = true ∧ 0 < 3 * (17 : Idx).toNat) :=
  ⟨rfl, by decide, by decide, ⟨_, rfl, by decide, by decide⟩, ⟨_, rfl, by decide⟩⟩
theorem test_witness_DestroyReleasesStrip : blank.alive = false ∧ (strip 1).alive = true := by decide
theorem test_witness_BeginDrivesLineLow : blank.alive = false ∧ noBuffer.alive = true := by decide
theorem test_witness_ShowStartsWaitOrDoesNothing :
    blank.alive = false ∧ (noBuffer.alive = true ∧ noBuffer.bufOk = false) ∧ (strip 0).alive = true ∧ (strip 0).bufOk = true := by
  decide
/-- Both ends of the strip's indices, and the first index beyond it. -/
theorem test_witness_SetpixRgbStoresScaledTriplet :
    (Memory.wf blank.buf = true ∧ blank.alive = false) ∧
    (Memory.wf noBuffer.buf = true ∧ noBuffer.alive = true ∧ ¬(noBuffer.bufOk = true ∧ (0 : Idx).toNat < noBuffer.numLeds.toNat)) ∧
    ((strip 2).alive = true ∧ ¬((strip 2).bufOk = true ∧ (2 : Idx).toNat < (strip 2).numLeds.toNat)) ∧
    (Memory.wf (strip 2).buf = true ∧ (strip 2).alive = true ∧ (strip 2).bufOk = true ∧ (1 : Idx).toNat < (strip 2).numLeds.toNat) := by
  decide
theorem test_witness_GetpixReturnsStoredColour :
    blank.alive = false ∧
    (noBuffer.alive = true ∧ ¬(noBuffer.bufOk = true ∧ (0 : Idx).toNat < noBuffer.numLeds.toNat)) ∧
    ((strip 2).alive = true ∧ ¬((strip 2).bufOk = true ∧ (2 : Idx).toNat < (strip 2).numLeds.toNat)) ∧
    ((strip 2).alive = true ∧ (strip 2).bufOk = true ∧ (1 : Idx).toNat < (strip 2).numLeds.toNat) := by decide
theorem test_witness_SetbrightStoresLevelPlusOne : blank.alive = false ∧ noBuffer.alive = true := by decide
theorem test_witness_NumpixReturnsCount : blank.alive = false ∧ noBuffer.alive = true := by decide
theorem test_witness_ReservedOpcodesAnswerIllegal :
    (0x0FFFFFFFFFFFFFFF : CmdWord).toNat / 2 ^ 60 = 0x0 ∧ 0xB ≤ (0xB000000000000000 : CmdWord).toNat / 2 ^ 60 ∧
    0xB ≤ (0xFFFFFFFFFFFFFFFF : CmdWord).toNat / 2 ^ 60 := by decide
theorem test_witness_ErrorsChangeNothingElse :
    ∃ t, blank.rspValid = false ∧ exec .destroy blank = .next t ∧ t.rspValid = true ∧ t.rspCode ≠ .ok :=
  ⟨_, rfl, rfl, rfl, by decide⟩
theorem test_witness_FirstMatchingCheckDecidesTheCode : (strip 1).rspValid = false := by decide
theorem test_witness_OutOfRangePixelIsSilent :
    (strip 2).alive = true ∧ (strip 2).numLeds.toNat ≤ (2 : Idx).toNat ∧ (strip 2).numLeds.toNat ≤ (0xFFFF : Idx).toNat := by decide
theorem test_witness_PixelRoundTrip :
    Memory.wf (strip 2).buf = true ∧ (strip 2).alive = true ∧ (strip 2).bufOk = true ∧
    (1 : Idx).toNat < (strip 2).numLeds.toNat ∧ (strip 2).bright = 0 := by decide
theorem test_witness_WhitePixelAtBothLevels :
    Memory.wf (strip 2).buf = true ∧ (strip 2).alive = true ∧ (strip 2).bufOk = true ∧
    (1 : Idx).toNat < (strip 2).numLeds.toNat := by decide
theorem test_witness_ScaleLaws :
    (1 : Byte) ≠ 0 ∧ 1 ≤ (1 : Byte).toNat ∧ (1 : Byte).toNat ≤ (255 : Byte).toNat := by decide

/-- The clauses of R45, each by a cycle that makes the change. -/
theorem test_witness_OnlyNamedWritersChangeState :
    (∃ t, step ((strip 1).present 0x8000000000000010) = .next t ∧ t.bright ≠ (strip 1).bright) ∧
    (∃ t, step ((strip 1).present 0x50000000000000FF) = .next t ∧ t.alive = true ∧ t.memRead 1 ≠ (strip 1).memRead 1) ∧
    (∃ t, step (blank.present 0x1000000200000003) = .next t ∧ t.numLeds ≠ blank.numLeds ∧ t.pin ≠ blank.pin) ∧
    (∃ t, step ((strip 1).present 0x2000000000000000) = .next t ∧ t.dir ≠ (strip 1).dir) ∧
    (∃ t, step finishing = .next t ∧ t.lastEnd ≠ finishing.lastEnd) ∧
    (∃ t, step ((strip 1).present 0x7000000000000000) = .next t) ∧ ∃ t, step ((strip 1).present 0x4000000000000000) = .next t :=
  ⟨⟨_, rfl, by decide⟩, ⟨_, rfl, by decide, by decide⟩, ⟨_, rfl, by decide, by decide⟩, ⟨_, rfl, by decide⟩,
    ⟨_, rfl, by decide⟩, ⟨_, rfl⟩, ⟨_, rfl⟩⟩

/-- The clauses of R42's column, each by a cycle that makes the change. -/
theorem test_witness_OnlyNamedWritersChangeStripAndSequencer :
    (∃ t, step (blank.present 0x1000000200000003) = .next t ∧ t.alive ≠ blank.alive) ∧
    (∃ t, step ((strip 1).present 0x2000000000000000) = .next t ∧ t.bufOk ≠ (strip 1).bufOk) ∧
    (∃ t, step ((strip 1).present 0x4000000000000000) = .next t ∧ t.st ≠ .idle) ∧
    (∃ t, step waiting = .next t ∧ t.cnt ≠ waiting.cnt ∧ t.snapHi ≠ waiting.snapHi ∧ t.port ≠ waiting.extPort) ∧
    ∃ t, step lowPhase = .next t ∧ t.bitIdx ≠ lowPhase.bitIdx :=
  ⟨⟨_, rfl, by decide⟩, ⟨_, rfl, by decide⟩, ⟨_, rfl, by decide⟩, ⟨_, rfl, by decide, by decide, by decide⟩, ⟨_, rfl, by decide⟩⟩

/-- An idle strip, no command for three cycles. -/
def resting : State := { strip 2 with future := [.quiet, .quiet, .quiet] }

theorem test_witness_LedCountAndPinAreImmutable :
    ∃ t, resting.alive = true ∧ resting.NoReset 2 ∧
      (∀ k < 2, ∀ u, runFor k resting = .next u →
        ¬(u.st = .idle ∧ u.pins.cmdValid = true ∧ decode u.pins.cmdWord = .destroy)) ∧
      runFor 2 resting = .next t := by
  refine ⟨_, rfl, noReset_of_quiet rfl (by decide) (by decide), fun k hk u hu hc => ?_, rfl⟩
  have h : ∀ k < 2, onNext (fun u => !u.pins.cmdValid) (runFor k resting) = true := by decide
  simpa [hc.2.1] using onNext_elim (h k hk) hu

theorem test_witness_DrivenLineIsHighOnlyInHighPhase :
    (sending.Inv ∧ sending.dir = .output) ∧ waiting.Inv ∧ waiting.dir = .output :=
  ⟨⟨test_witness_inv_high, rfl⟩, test_witness_inv_wait, rfl⟩
theorem test_witness_PhasesFillTheBitPeriod : Params.ref.Valid ∧ Params.least.Valid := by decide
theorem test_witness_WaitCycle :
    (waiting.pins.rst = false ∧ waiting.st = .wait ∧ waiting.alive = true ∧ waiting.bufOk = true) ∧
    ({ waiting with lastValid := true, lastEnd := 499 } : State).latchOk 500 = false ∧
    (waiting.latchOk waiting.pins.nowUs = true ∧ ({ waiting with numLeds := 0 } : State).numLeds = 0) ∧ waiting.numLeds ≠ 0 := by
  decide
theorem test_witness_HighCycle :
    (sending.pins.rst = false ∧ sending.st = .high ∧ sending.cnt ≠ 0) ∧ ({ sending with cnt := 0 } : State).cnt = 0 := by decide
/-- The five outcomes: counting, the next bit, a gap, the next byte, the end. -/
theorem test_witness_LowCycle :
    (lowPhase.pins.rst = false ∧ lowPhase.st = .low ∧ lowPhase.alive = true ∧ lowPhase.bufOk = true) ∧
    ({ lowPhase with cnt := 1 } : State).cnt ≠ 0 ∧ (lowPhase.cnt = 0 ∧ lowPhase.bitIdx ≠ 0) ∧
    (lastBit.cnt = 0 ∧ lastBit.bitIdx = 0 ∧ ({ lastBit with byteIdx := 1 } : State).byteIdx.toNat + 1 < 3 * lastBit.numLeds.toNat ∧
      0 < ({ lastBit with cfg := { Params.ref with tByteGap := 1 } } : State).cfg.tByteGap) ∧
    lastBit.cfg.tByteGap = 0 ∧ ¬(({ lastBit with byteIdx := 2 } : State).byteIdx.toNat + 1 < 3 * lastBit.numLeds.toNat) := by decide
theorem test_witness_GapCycle :
    ((gapOf 2).pins.rst = false ∧ (gapOf 2).st = .gap ∧ (gapOf 2).alive = true ∧ (gapOf 2).bufOk = true ∧
      (gapOf 2).byteIdx.toNat + 1 < 3 * (gapOf 2).numLeds.toNat) ∧ (gapOf 2).cnt ≠ 0 ∧ (gapOf 0).cnt = 0 ∧
    lastBit.st ≠ .gap ∧ lastBit.cfg.tByteGap = 0 := by decide
theorem test_witness_GapCycle_step : ∃ t, step lastBit = .next t := ⟨_, rfl⟩
theorem test_witness_DoneCycle : finishing.pins.rst = false ∧ finishing.st = .done := by decide

/-- A SHOW on a strip of `n` LEDs whose latch test fails in the first WAIT cycle and holds in the second. -/
def showing (n : Idx) : State :=
  { strip n with
    lastValid := true, lastEnd := 0, pins := { Inputs.quiet with cmdValid := true, cmdWord := 0x4000000000000000 },
    future := { Inputs.quiet with nowUs := 49 } :: { Inputs.quiet with nowUs := 50 } :: List.replicate 160 .quiet }

theorem showing_quiet (n : Idx) : ∀ p ∈ (showing n).future, p.rst = false := by
  intro p hp
  simp only [showing, List.mem_cons, List.mem_replicate] at hp
  obtain rfl | rfl | ⟨-, rfl⟩ := hp <;> rfl

theorem showing_length (n : Idx) : (showing n).future.length = 162 := by
  simp only [showing, List.length_cons, List.length_replicate]

/-- One LED, and the empty strip. -/
theorem test_witness_ShowTimingFromAcceptance :
    ∀ n ∈ ([1, 0] : List Idx),
      (showing n).Inv ∧ (showing n).st = .idle ∧ (showing n).pins.cmdValid = true ∧
      decode (showing n).pins.cmdWord = .showFrame ∧ (showing n).alive = true ∧ (showing n).bufOk = true ∧
      (showing n).NoReset (1 + 3 + (showing n).frameCycles) ∧
      (∀ k < 1, (showing n).latchOk ((showing n).inputAt (k + 1)).nowUs = false) ∧
      (showing n).latchOk ((showing n).inputAt (1 + 1)).nowUs = true := by
  intro n hn
  simp only [List.mem_cons, List.not_mem_nil, or_false] at hn
  obtain rfl | rfl := hn
  · refine ⟨by constructor <;> decide, rfl, rfl, by decide, rfl, rfl, noReset_of_quiet rfl (showing_quiet 1) ?_, by decide, by decide⟩
    simp [showing, State.frameCycles, strip, blank, Params.ref]
  · refine ⟨by constructor <;> decide, rfl, rfl, by decide, rfl, rfl, noReset_of_quiet rfl (showing_quiet 0) ?_, by decide, by decide⟩
    simp [showing, State.frameCycles, strip, blank, Params.ref]

/-- A frame of one LED about to start, nothing else happening. -/
def starting (d : Dir) : State := { waiting with dir := d, future := List.replicate 160 .quiet }

theorem starting_length (d : Dir) : (starting d).future.length = 160 := by
  simp only [starting, List.length_replicate]
theorem starting_cycles (d : Dir) : (starting d).frameCycles = 144 := by cases d <;> decide

theorem test_witness_FrameWaveformClosedForm :
    (starting .output).Inv ∧ (starting .output).st = .wait ∧
    (starting .output).latchOk (starting .output).pins.nowUs = true ∧ (starting .output).numLeds ≠ 0 ∧
    (starting .output).NoReset ((starting .output).frameCycles + 1) ∧
    ∀ k, 1 ≤ k → k ≤ (starting .output).frameCycles → ((starting .output).inputAt k).extWrEn = false := by
  refine ⟨by constructor <;> decide, rfl, by decide, by decide, noReset_of_quiet rfl ?_ ?_, fun k _ hk => ?_⟩
  · intro p hp; simp only [starting, List.mem_replicate] at hp; rw [hp.2]; rfl
  · rw [starting_length, starting_cycles]; decide
  · rw [starting_cycles] at hk
    refine State.inputAt_forall (P := fun p => p.extWrEn = false) rfl (fun p hp => ?_) (by rw [starting_length]; omega)
    simp only [starting, List.mem_replicate] at hp; rw [hp.2]; rfl
/-- Both directions of the pin. -/
theorem test_witness_LineWaveformSurvivesExternalWrites :
    ∀ d, (starting d).Inv ∧ (starting d).st = .wait ∧ (starting d).latchOk (starting d).pins.nowUs = true ∧
      (starting d).numLeds ≠ 0 ∧ (starting d).NoReset ((starting d).frameCycles + 1) := by
  intro d
  refine ⟨by cases d <;> constructor <;> decide, rfl, by cases d <;> decide, by cases d <;> decide, noReset_of_quiet rfl ?_ ?_⟩
  · intro p hp; simp only [starting, List.mem_replicate] at hp; rw [hp.2]; rfl
  · rw [starting_length, starting_cycles]; decide
/-- External writes in every cycle up to the last high phase, none from there on. -/
theorem test_witness_ExternalWritesBeforeTheLastLowPhaseAreLost :
    let s : State := { starting .output with pins := { Inputs.quiet with nowUs := 500, extWrEn := true, extWrMask := 0xFF } }
    s.Inv ∧ s.st = .wait ∧ s.latchOk s.pins.nowUs = true ∧ s.numLeds ≠ 0 ∧ s.NoReset (s.frameCycles + 1) ∧
    ∀ k ≤ s.frameCycles, s.frameCycles < k + tl s.cfg (s.bitstream (24 * s.numLeds.toNat - 1)) →
      (s.inputAt k).extWrEn = false := by
  intro s
  have hc : s.frameCycles = 144 := by decide
  have hl : tl s.cfg (s.bitstream (24 * s.numLeds.toNat - 1)) = 4 := by decide
  have hf : s.future.length = 160 := starting_length .output
  refine ⟨by constructor <;> decide, rfl, by decide, by decide, noReset_of_quiet rfl ?_ (by omega), fun k hk hk' => ?_⟩
  · intro p hp; rw [(List.mem_replicate.mp hp).2]; rfl
  · obtain ⟨j, rfl⟩ : ∃ j, k = j + 1 := ⟨k - 1, by omega⟩
    have hj : j < s.future.length := by omega
    have hq : s.future[j] = .quiet := (List.mem_replicate.mp (List.getElem_mem hj)).2
    simp [State.inputAt, List.getElem?_eq_getElem hj, hq, Inputs.quiet]
/-- The five cases of a phase write. -/
theorem test_witness_PhaseWriteOverridesExternalWrite :
    (waiting.Inv ∧ waiting.st = .wait ∧ waiting.latchOk waiting.pins.nowUs = true ∧ waiting.numLeds ≠ 0) ∧
    (({ sending with cnt := 0 } : State).Inv ∧ ({ sending with cnt := 0 } : State).st = .high) ∧
    (lowPhase.Inv ∧ lowPhase.st = .low ∧ lowPhase.cnt = 0 ∧ lowPhase.bitIdx ≠ 0) ∧
    (lastBit.Inv ∧ lastBit.st = .low ∧ lastBit.cnt = 0 ∧ lastBit.cfg.tByteGap = 0 ∧
      lastBit.byteIdx.toNat + 1 < 3 * lastBit.numLeds.toNat) ∧
    ((gapOf 0).Inv ∧ (gapOf 0).st = .gap ∧ (gapOf 0).cnt = 0) :=
  ⟨⟨test_witness_inv_wait, by decide, by decide, by decide⟩, ⟨by constructor <;> decide, rfl⟩,
    ⟨test_witness_inv_low, by decide, by decide, by decide⟩,
    ⟨by constructor <;> decide, by decide, by decide, by decide, by decide⟩, ⟨by constructor <;> decide, by decide, by decide⟩⟩
theorem test_witness_SequencerFollowsTheDiagram :
    sending.pins.rst = false ∧ (∃ t, step (blank.present 0x9000000000000000) = .next t) ∧ (∃ t, step waiting = .next t) ∧
    (∃ t, step sending = .next t) ∧ (∃ t, step lastBit = .next t) ∧ (∃ t, step (gapOf 0) = .next t) ∧ ∃ t, step finishing = .next t :=
  ⟨rfl, ⟨_, rfl⟩, ⟨_, rfl⟩, ⟨_, rfl⟩, ⟨_, rfl⟩, ⟨_, rfl⟩, ⟨_, rfl⟩⟩
theorem test_witness_FrameIgnoresBrightness :
    (sending.pins.rst = false ∧ sending.st ≠ .idle) ∧ (showing 1).pins.rst = false ∧ (showing 1).pins.cmdValid = true ∧
    decode (showing 1).pins.cmdWord = .showFrame := by decide

/-- The DONE cycle of a frame at time 3, then a SHOW at once, its only WAIT cycle at time 53. -/
def twice : State :=
  { strip 1 with
    st := .done, pins := { Inputs.quiet with nowUs := 3 },
    future := [{ Inputs.quiet with cmdValid := true, cmdWord := 0x4000000000000000 }, { Inputs.quiet with nowUs := 53 }, .quiet] }

theorem test_witness_SecondFrameWaitsForTheLatch :
    ∃ t u, twice.alive = true ∧ twice.st = .done ∧ twice.NoReset (1 + 2) ∧
      (∀ k, 1 ≤ k → k ≤ 1 + 1 → ∀ v, runFor k twice = .next v →
        v.st ≠ .done ∧ ¬(v.st = .idle ∧ v.pins.cmdValid = true ∧ decode v.pins.cmdWord = .destroy)) ∧
      runFor (1 + 1) twice = .next t ∧ t.st = .wait ∧ step t = .next u ∧ u.st ≠ .wait ∧ t.numLeds ≠ 0 := by
  refine ⟨_, _, rfl, rfl, noReset_of_quiet rfl (by decide) (by decide), fun k h1 h2 v hv => ?_, rfl, rfl, rfl, by decide, by decide⟩
  have h : ∀ k, 1 ≤ k → k ≤ 1 + 1 →
      onNext (fun v => v.st != .done && v.pins.cmdWord != 0x2000000000000000 && decode v.pins.cmdWord != .destroy)
        (runFor k twice) = true := by
    intro k h1 h2
    obtain rfl | rfl : k = 1 ∨ k = 2 := by omega
    · decide
    · decide
  have := onNext_elim (h k h1 h2) hv
  simp only [Bool.and_eq_true, bne_iff_ne] at this
  exact ⟨this.1.1, fun hc => this.2 hc.2.2⟩
theorem test_witness_WaitLastsWhileLatchFails :
    let s := { showing 1 with st := .wait }
    s.st = .wait ∧ s.rspValid = false ∧ s.NoReset 2 ∧ ∀ k < 2, s.latchOk (s.inputAt k).nowUs = false := by
  exact ⟨rfl, rfl, noReset_of_quiet rfl (showing_quiet 1) (Nat.le_trans (by decide : 2 ≤ 162 + 1) (by rw [← showing_length 1])), by decide⟩
/-- CONSTRUCT, then SHOW, then the first WAIT cycle. -/
def constructing : State :=
  { blank.present 0x1000000100000003 with
    pins := { (blank.present 0x1000000100000003).pins with allocGrant := true },
    future := [{ Inputs.quiet with cmdValid := true, cmdWord := 0x4000000000000000 }, .quiet] }

theorem test_witness_FirstShowLeavesWaitAtOnce :
    ∃ t, constructing.Inv ∧ constructing.pins.rst = false ∧ constructing.st = .idle ∧ constructing.pins.cmdValid = true ∧
      decode constructing.pins.cmdWord = .construct 1 3 ∧ constructing.alive = false ∧ (3 : Byte).toNat < 8 ∧
      (∀ k, 1 ≤ k → k ≤ 1 + 1 → ∀ v, runFor k constructing = .next v → v.st ≠ .done) ∧
      runFor (1 + 1) constructing = .next t ∧ t.st = .wait ∧ t.pins.rst = false := by
  refine ⟨_, by constructor <;> decide, rfl, rfl, rfl, by decide, rfl, by decide, fun k h1 h2 v hv => ?_, rfl, rfl, rfl⟩
  have h : onNext (fun v => v.st != .done) (runFor k constructing) = true := by
    obtain rfl | rfl : k = 1 ∨ k = 2 := by omega
    · decide
    · decide
  simpa using onNext_elim h hv
theorem test_witness_FreshStripDoesNotWait : blank.alive = false ∧ (7 : Byte).toNat < 8 := by decide

/-- Without a strip, strip and sequencer registers that differ; with one, bytes outside it that differ. -/
theorem test_witness_HiddenStateNeverReachesTheHost :
    (let t : State := { blank with numLeds := 3, bright := 9, curByte := 7, snapHi := 0xFF, rspData := 5, buf := [(0, 1)] }
     blank.Inv ∧ t.Inv ∧ SameToHost blank t ∧ blank ≠ t) ∧
    (let t : State := { strip 1 with buf := [(3, 1)], byteIdx := 2 }
     (strip 1).Inv ∧ t.Inv ∧ SameToHost (strip 1) t ∧ strip 1 ≠ t) :=
  ⟨⟨by constructor <;> decide, by constructor <;> decide, by constructor <;> decide, by decide⟩,
    ⟨by constructor <;> decide, by constructor <;> decide, by constructor <;> decide, by decide⟩⟩

end Sys2Proof.Tests
end

section
/-! PROOFS. Every cycle keeps the invariant of the block (O9). A cycle begins with the external write (R14), which keeps it; then the
command or the sequencer acts, by the cases of `exec_cases` and `sequencer_cases`; then the inputs move on. -/

namespace Sys2Proof.Machine

/-! ### The pin's bit of the port -/

theorem State.pmask_getLsbD_pin (s : State) : s.pmask.getLsbD s.pin.toNat = true := by
  have hp := s.pin.isLt
  simp [State.pmask, hp]

theorem State.getLsbD_pin_or_pmask (s : State) (w : PortWord) : (w ||| s.pmask).getLsbD s.pin.toNat = true := by
  simp [s.pmask_getLsbD_pin]

theorem State.getLsbD_pin_andNot_pmask (s : State) (w : PortWord) : (w &&& ~~~s.pmask).getLsbD s.pin.toNat = false := by
  simp [s.pmask_getLsbD_pin]

/-- R33: no external write reaches the pin's bit while a strip exists. -/
theorem State.extPort_getLsbD_pin {s : State} (h : s.alive = true) : s.extPort.getLsbD s.pin.toNat = s.pinLevel := by
  have hp := s.pin.isLt
  have hmask : s.extMask.getLsbD s.pin.toNat = false := by simp [State.extMask, h, s.pmask_getLsbD_pin]
  unfold State.extPort
  split
  · simp only [BitVec.getLsbD_or, BitVec.getLsbD_and, BitVec.getLsbD_not, hmask]
    simp [hp]
  · rfl

/-- R146: the two snapshots of a frame differ in the pin's bit alone. -/
theorem State.lineHigh_lineLow (s : State) :
    s.lineHigh = s.lineLow ||| s.pmask ∧ s.lineLow = s.lineLow &&& ~~~s.pmask := by
  constructor
  · ext k hk
    cases hm : s.pmask[k] <;> simp [State.lineHigh, State.lineLow, hm]
  · ext k hk
    cases hm : s.pmask[k] <;> simp [State.lineLow, hm]

/-! ### The buffer's capacity (R62) -/

theorem Memory.addr_lt_write {m : Memory} {cap a : Nat} {v : Byte} (hm : ∀ c ∈ m, c.1 < cap) (ha : a < cap) :
    ∀ c ∈ m.write a v, c.1 < cap := fun c hc =>
  (Memory.mem_write hc).elim (fun hca => hca ▸ ha) (hm c)

/-! ### Phase lengths (R9, R140) -/

section
variable {p : Params}

theorem th_pos (hp : p.Valid) (b : Bool) : 0 < th p b := by
  unfold th; split <;> omega

theorem tl_pos (hp : p.Valid) (b : Bool) : 0 < tl p b := by
  unfold tl th; split <;> omega

theorem th_le_cntW (hp : p.Valid) (b : Bool) : th p b ≤ 2 ^ p.cntW := by
  unfold th; split <;> omega

theorem tl_le_cntW (hp : p.Valid) (b : Bool) : tl p b ≤ 2 ^ p.cntW := by
  unfold tl; omega

end

/-! ### Facts the invariant gives -/

/-- The part of `State.Inv` that speaks of a frame being sent. -/
structure State.FrameInv (s : State) : Prop where
  frameByte : s.inFrame → s.byteIdx.toNat < s.nb ∧ s.curByte = s.buf.read s.byteIdx.toNat
  frameSnap : s.inFrame → s.snapHi = s.snapLo ||| s.pmask ∧ s.snapLo = s.snapLo &&& ~~~s.pmask
  highPhase : s.st = .high → s.cnt < th s.cfg s.curBit ∧ s.pinLevel = true
  lowPhase : s.st = .low → s.cnt < tl s.cfg s.curBit ∧ s.pinLevel = false
  gapPhase : s.st = .gap →
    s.cnt < s.cfg.tByteGap ∧ s.bitIdx = 0 ∧ s.byteIdx.toNat + 1 < s.nb ∧ s.pinLevel = false

theorem State.FrameInv.of_not_inFrame {s : State} (out : ¬ s.inFrame) : s.FrameInv where
  frameByte hf := absurd hf out
  frameSnap hf := absurd hf out
  highPhase hs := absurd (.inl hs) out
  lowPhase hs := absurd (.inr (.inl hs)) out
  gapPhase hs := absurd (.inr (.inr hs)) out

/-- Outside a frame the other fields of the invariant are left to prove. -/
theorem State.Inv.of_not_inFrame {s : State} (out : ¬ s.inFrame) (rest : s.FrameInv → s.Inv) : s.Inv :=
  rest (.of_not_inFrame out)

theorem State.not_inFrame_of_idle {s : State} (idle : s.st = .idle) : ¬ s.inFrame := by
  simp [idle]

theorem State.busy_of_inFrame {s : State} (hf : s.inFrame) : s.st ≠ .idle := by
  rcases hf with hs | hs | hs <;> simp [hs]

namespace State.Inv
variable {s : State}

theorem alive_of_busy (h : s.Inv) (busy : s.st ≠ .idle) : s.alive = true := h.bufAlive (h.busyBuf busy)

theorem alive_of_output (h : s.Inv) (out : s.dir = .output) : s.alive = true := by
  cases ha : s.alive
  · simp [h.deadInput ha] at out
  · rfl

/-- Every byte index of the strip fits `byte_idx` (R9, R32). -/
theorem toNat_ofNat_byteIdx (h : s.Inv) (buf : s.bufOk = true) {k : Nat} (hk : k < s.nb) :
    (BitVec.ofNat 18 k).toNat = k := by
  obtain ⟨-, -, -, -, -, hcap, -⟩ := h.params
  have hfit := h.bufFits buf
  rw [BitVec.toNat_ofNat]
  exact Nat.mod_eq_of_lt (by omega)

/-! ### What every cycle does besides -/

theorem beginCycle (h : s.Inv) : s.beginCycle.Inv :=
  have level (ha : s.alive = true) : s.beginCycle.pinLevel = s.pinLevel := State.extPort_getLsbD_pin ha
  { h with
    rspIdle := fun hv => by simp at hv
    lineIdle := fun hd hs => by rw [level (h.alive_of_output hd)]; exact h.lineIdle hd hs
    highPhase := fun hs => by
      rw [level (h.alive_of_busy (busy_of_inFrame (.inl hs)))]; exact h.highPhase hs
    lowPhase := fun hs => by
      rw [level (h.alive_of_busy (busy_of_inFrame (.inr (.inl hs))))]; exact h.lowPhase hs
    gapPhase := fun hs => by
      rw [level (h.alive_of_busy (busy_of_inFrame (.inr (.inr hs))))]; exact h.gapPhase hs }

theorem nextInputs (h : s.Inv) : s.nextInputs.Inv := { h with }

theorem resetCycle (h : s.Inv) : s.resetCycle.Inv :=
  .of_not_inFrame (not_inFrame_of_idle s.resetCycle_st) fun frame => { frame with
    params := h.params
    memWf := rfl
    memCap := by simp
    bufAlive := by simp
    bufFits := by simp
    deadInput := fun _ => rfl
    busyBuf := fun hs => absurd rfl hs
    rspIdle := fun _ => rfl
    rspTop := Nat.two_pow_pos _
    errData := fun _ => rfl
    cntFits := Nat.two_pow_pos _
    unsent := fun _ => rfl
    lineIdle := by simp }

theorem respond (h : s.Inv) (idle : s.st = .idle) {c : RspCode} {d : Packed} (err : c ≠ .ok → d = 0)
    (top : d.toNat < 2 ^ 24) : (s.respond c d).Inv :=
  { h with rspIdle := fun _ => idle, rspTop := top, errData := err }

theorem respondOk (h : s.Inv) (idle : s.st = .idle) : (s.respond .ok 0).Inv :=
  h.respond idle (fun _ => rfl) (by decide)

/-! ### The commands -/

/-- R181: a new strip, with a buffer only where it fits. -/
theorem construct (h : s.Inv) (idle : s.st = .idle) (dead : s.alive = false) (n : Idx) (pin : BitVec 3) :
    ({ s with
      alive := true, numLeds := n, pin := pin, bufOk := s.allocates n,
      buf := if s.allocates n then s.buf.clearBelow (3 * n.toNat) else s.buf,
      bright := 0, lastEnd := 0, lastValid := false } : State).Inv :=
  .of_not_inFrame (not_inFrame_of_idle idle) fun frame => { frame, h with
    memWf := by
      dsimp only
      split
      · exact Memory.wf_clearBelow _ h.memWf
      · exact h.memWf
    memCap := by
      dsimp only
      split
      · exact fun c hc => h.memCap c (Memory.mem_clearBelow hc)
      · exact h.memCap
    bufAlive := fun _ => rfl
    bufFits := fun hb => by
      simp only [State.allocates, Bool.and_eq_true, decide_eq_true_eq] at hb
      exact hb.2
    deadInput := fun ha => by simp at ha
    busyBuf := fun hs => absurd idle hs
    unsent := fun _ => rfl
    lineIdle := fun hd => by simp [h.deadInput dead] at hd }

/-- R183: without a strip there is no buffer and no driven line. -/
theorem destroy (h : s.Inv) (idle : s.st = .idle) :
    ({ s.clearPinBit with dir := .input, alive := false, bufOk := false } : State).Inv :=
  .of_not_inFrame (not_inFrame_of_idle idle) fun frame => { frame, h with
    bufAlive := fun hb => by simp at hb
    bufFits := fun hb => by simp at hb
    deadInput := fun _ => rfl
    busyBuf := fun hs => absurd idle hs
    lineIdle := fun hd => by simp at hd }

/-- R185: the line is driven from now on, and low. -/
theorem beginStrip (h : s.Inv) (idle : s.st = .idle) (alive : s.alive = true) :
    ({ s.clearPinBit with dir := .output } : State).Inv :=
  .of_not_inFrame (not_inFrame_of_idle idle) fun frame => { frame, h with
    deadInput := fun ha => by simp [alive] at ha
    lineIdle := fun _ _ => s.getLsbD_pin_andNot_pmask s.port }

theorem pixelAddr_lt_bufCap (h : s.Inv) {idx : Idx} (range : s.inRange idx = true) {k : Nat} (hk : k < 3) :
    pixelAddr idx k < s.cfg.bufCap := by
  obtain ⟨-, hbuf, hlt⟩ := State.hasByte_eq_true.mp (State.hasByte_pixelAddr range hk)
  exact Nat.lt_of_lt_of_le hlt (h.bufFits hbuf)

/-- R104: the three bytes written are bytes of the strip. -/
theorem withPixel (h : s.Inv) (idle : s.st = .idle) {idx : Idx} (range : s.inRange idx = true) (r g b : Byte) :
    (s.withPixel idx r g b).Inv :=
  .of_not_inFrame (not_inFrame_of_idle idle) fun frame => { frame, h with
    memWf := Memory.wf_write _ _ (Memory.wf_write _ _ (Memory.wf_write _ _ h.memWf))
    memCap :=
      have addr {k : Nat} (hk : k < 3) : pixelAddr idx k < s.cfg.bufCap := h.pixelAddr_lt_bufCap range hk
      Memory.addr_lt_write (Memory.addr_lt_write (Memory.addr_lt_write h.memCap (addr (by omega))) (addr (by omega)))
        (addr (by omega)) }

theorem setbright (h : s.Inv) (level : Byte) : ({ s with bright := storedFactor level } : State).Inv := { h with }

/-- The sequencer goes, from a state other than HIGH, to a state outside the frame: the line stays low. -/
theorem outsideFrame (h : s.Inv) (buf : s.bufOk = true) (noRsp : s.rspValid = false) (notHigh : s.st ≠ .high)
    {st : SeqState} (out : st = .idle ∨ st = .wait ∨ st = .done) (hi lo : PortWord) :
    ({ s with snapHi := hi, snapLo := lo, st := st } : State).Inv :=
  .of_not_inFrame (by rcases out with rfl | rfl | rfl <;> simp) fun frame => { frame, h with
    busyBuf := fun _ => buf
    rspIdle := fun hv => by simp [noRsp] at hv
    lineIdle := fun hd _ => h.lineIdle hd notHigh }

/-- A command accepted in IDLE keeps the invariant. -/
theorem of_exec (h : s.Inv) (idle : s.st = .idle) (noRsp : s.rspValid = false) {i : Instr} {t : State}
    (he : exec i s = .next t) : t.Inv := by
  cases exec_cases he with
  | respond c d err top eq => exact eq ▸ h.respond idle err top
  | construct n pinid _ dead _ eq => exact eq ▸ (h.construct idle dead n _).respondOk idle
  | destroy _ _ eq => exact eq ▸ (h.destroy idle).respondOk idle
  | beginStrip _ alive eq => exact eq ▸ (h.beginStrip idle alive).respondOk idle
  | showFrame _ _ buf eq => exact eq ▸ h.outsideFrame buf noRsp (by simp [idle]) (.inr (.inl rfl)) s.snapHi s.snapLo
  | pixel idx r g b _ range eq => exact eq ▸ (h.withPixel idle range r g b).respondOk idle
  | setbright level _ _ eq => exact eq ▸ (h.setbright level).respondOk idle

/-! ### The sequencer -/

/-- R152, R154: the high phase of a bit begins, the port taking the snapshot with the pin set. -/
theorem startBit (h : s.Inv) (buf : s.bufOk = true) (noRsp : s.rspValid = false) {hi lo : PortWord} {a : BitVec 18}
    {v : Byte} {j : BitVec 3} (snap : hi = lo ||| s.pmask ∧ lo = lo &&& ~~~s.pmask)
    (byte : a.toNat < s.nb ∧ v = s.buf.read a.toNat) :
    ({ s with
      snapHi := hi, snapLo := lo, curByte := v, byteIdx := a, bitIdx := j, port := hi,
      cnt := th s.cfg (v.getLsbD j.toNat) - 1, st := .high } : State).Inv :=
  have pos := th_pos h.params (v.getLsbD j.toNat)
  have fits := th_le_cntW h.params (v.getLsbD j.toNat)
  { h with
    busyBuf := fun _ => buf
    rspIdle := fun hv => by simp [noRsp] at hv
    cntFits := by dsimp only; omega
    lineIdle := fun _ hs => absurd rfl hs
    frameByte := fun _ => byte
    frameSnap := fun _ => snap
    highPhase := fun _ => ⟨Nat.sub_lt pos Nat.one_pos, snap.1 ▸ s.getLsbD_pin_or_pmask lo⟩
    lowPhase := fun hs => by simp at hs
    gapPhase := fun hs => by simp at hs }

/-- R152: the first bit of byte `k` begins. -/
theorem startByte (h : s.Inv) (noRsp : s.rspValid = false) {hi lo : PortWord} {k : Nat}
    (snap : hi = lo ||| s.pmask ∧ lo = lo &&& ~~~s.pmask) (byte : s.hasByte k = true) :
    ({ s with
      snapHi := hi, snapLo := lo, curByte := s.buf.read k, byteIdx := BitVec.ofNat 18 k, bitIdx := 7, port := hi,
      cnt := th s.cfg ((s.buf.read k).getLsbD 7) - 1, st := .high } : State).Inv := by
  obtain ⟨-, buf, hk⟩ := State.hasByte_eq_true.mp byte
  have idx := h.toNat_ofNat_byteIdx buf hk
  exact h.startBit buf noRsp (j := 7) snap ⟨idx.symm ▸ hk, by rw [idx]⟩

/-- R153 to R155: a phase or a gap goes on. -/
theorem count (h : s.Inv) : ({ s with cnt := s.cnt - 1 } : State).Inv :=
  have le : s.cnt - 1 ≤ s.cnt := Nat.sub_le _ _
  { h with
    cntFits := Nat.lt_of_le_of_lt le h.cntFits
    highPhase := fun hs => (h.highPhase hs).imp_left (Nat.lt_of_le_of_lt le)
    lowPhase := fun hs => (h.lowPhase hs).imp_left (Nat.lt_of_le_of_lt le)
    gapPhase := fun hs => (h.gapPhase hs).imp_left (Nat.lt_of_le_of_lt le) }

/-- R153: the low phase of the same bit begins, the port taking the snapshot with the pin cleared. -/
theorem fall (h : s.Inv) (high : s.st = .high) :
    ({ s with port := s.snapLo, cnt := tl s.cfg s.curBit - 1, st := .low } : State).Inv :=
  have inFrame : s.inFrame := .inl high
  have busy := busy_of_inFrame inFrame
  have low : s.snapLo.getLsbD s.pin.toNat = false := by
    rw [(h.frameSnap inFrame).2]
    exact s.getLsbD_pin_andNot_pmask _
  have pos := tl_pos h.params s.curBit
  have fits := tl_le_cntW h.params s.curBit
  { h with
    busyBuf := fun _ => h.busyBuf busy
    rspIdle := fun hv => absurd (h.rspIdle hv) busy
    cntFits := by dsimp only; omega
    lineIdle := fun _ _ => low
    frameByte := fun _ => h.frameByte inFrame
    frameSnap := fun _ => h.frameSnap inFrame
    highPhase := fun hs => by simp at hs
    lowPhase := fun _ => ⟨Nat.sub_lt pos Nat.one_pos, low⟩
    gapPhase := fun hs => by simp at hs }

/-- R154, R144: a gap begins after the last bit of a byte that is not the last. -/
theorem toGap (h : s.Inv) (low : s.st = .low) (bit : s.bitIdx = 0) (more : s.byteIdx.toNat + 1 < s.nb)
    (gap : 0 < s.cfg.tByteGap) : ({ s with cnt := s.cfg.tByteGap - 1, st := .gap } : State).Inv :=
  have inFrame : s.inFrame := .inr (.inl low)
  have busy := busy_of_inFrame inFrame
  have fits : s.cfg.tByteGap ≤ 2 ^ s.cfg.cntW := by
    obtain ⟨-, -, -, -, -, -, hmax⟩ := h.params
    exact le_of_max_le_right hmax
  { h with
    busyBuf := fun _ => h.busyBuf busy
    rspIdle := fun hv => absurd (h.rspIdle hv) busy
    cntFits := by dsimp only; omega
    lineIdle := fun _ _ => (h.lowPhase low).2
    frameByte := fun _ => h.frameByte inFrame
    frameSnap := fun _ => h.frameSnap inFrame
    highPhase := fun hs => by simp at hs
    lowPhase := fun hs => by simp at hs
    gapPhase := fun _ => ⟨Nat.sub_lt gap Nat.one_pos, bit, more, (h.lowPhase low).2⟩ }

/-- R158: the frame's end is recorded. -/
theorem finish (h : s.Inv) (noRsp : s.rspValid = false) (done : s.st = .done) (now : Time) :
    ({ s with lastEnd := now, lastValid := true, st := .idle } : State).Inv :=
  { h.outsideFrame (h.busyBuf (by simp [done])) noRsp (by simp [done]) (.inl rfl) s.snapHi s.snapLo with
    unsent := fun hv => by simp at hv }

/-- The sequencer's part of a cycle keeps the invariant. -/
theorem of_sequencer (h : s.Inv) {t : State} (hs : sequencer s s.beginCycle = .next t) : t.Inv := by
  have h' : s.beginCycle.Inv := h.beginCycle
  cases sequencer_cases hs with
  | stay _ eq => exact eq ▸ h'
  | waitEmpty st _ _ eq =>
    exact eq ▸ h'.outsideFrame (h.busyBuf (by simp [st])) rfl (by simp [st]) (.inr (.inr rfl)) s.lineHigh s.lineLow
  | waitLoad _ _ _ byte eq => exact eq ▸ h'.startByte rfl (k := 0) s.lineHigh_lineLow byte
  | count _ _ eq => exact eq ▸ h'.count
  | fall st _ eq => exact eq ▸ h'.fall st
  | nextBit st _ _ eq =>
    have inFrame : s.inFrame := .inr (.inl st)
    exact eq ▸ h'.startBit (h.busyBuf (busy_of_inFrame inFrame)) rfl (h.frameSnap inFrame) (h.frameByte inFrame)
  | toGap st _ bit more gap eq => exact eq ▸ h'.toGap st bit more gap
  | nextByte st _ byte eq =>
    have inFrame : s.inFrame := .inr (st.imp And.left id)
    exact eq ▸ h'.startByte rfl (h.frameSnap inFrame) byte
  | last st _ _ _ eq =>
    exact eq ▸ h'.outsideFrame (h.busyBuf (by simp [st])) rfl (by simp [st]) (.inr (.inr rfl)) s.snapHi s.snapLo
  | finish st eq => exact eq ▸ (h'.finish rfl st _).respondOk rfl

/-- One cycle keeps the invariant. -/
theorem of_step (h : s.Inv) {t : State} (hs : step s = .next t) : t.Inv := by
  cases step_cases hs with
  | reset _ eq => exact eq ▸ h.resetCycle
  | command _ idle _ u he eq => exact eq ▸ (h.beginCycle.of_exec idle rfl he).nextInputs
  | sequencer _ _ u hu eq => exact eq ▸ (h.of_sequencer hu).nextInputs

end State.Inv

/-- Settles O9, by the cases of what a cycle can do: reset, a command, or the sequencer. -/
theorem stepKeepsInvariant : Obligations.StepKeepsInvariant := fun _ _ h hs => h.of_step hs

end Sys2Proof.Machine
end

section
/-! PROOFS. What the host cannot see never reaches it (O52). The relation `SameToHost` is a simulation: each operation of a cycle, applied
to two related states that meet the invariant, answers with related states, and the outputs are functions of what is related. -/

namespace Sys2Proof.Machine

/-- Two buffers that agree on a byte agree on it after the same write. -/
theorem Memory.read_write_congr {m n : Memory} (hm : m.wf = true) (hn : n.wf = true) (a : Nat) (v : Byte) {i : Nat}
    (h : m.read i = n.read i) : (m.write a v).read i = (n.write a v).read i := by
  rw [Memory.read_write a v i hm, Memory.read_write a v i hn, h]

/-! ### Outcomes the host cannot tell apart -/

/-- Both outcomes are next states, and the host cannot tell them apart. -/
def SameNext (o p : Result) : Prop := ∃ u v, o = .next u ∧ p = .next v ∧ SameToHost u v

theorem SameNext.next {u v : State} (h : SameToHost u v) : SameNext (.next u) (.next v) := ⟨u, v, rfl, rfl, h⟩

theorem SameNext.ite {c d : Prop} [Decidable c] [Decidable d] {o₁ o₂ p₁ p₂ : Result} (hcd : c ↔ d)
    (pos : c → SameNext o₁ p₁) (neg : ¬c → SameNext o₂ p₂) :
    SameNext (if c then o₁ else o₂) (if d then p₁ else p₂) := by
  by_cases hc : c
  · rw [if_pos hc, if_pos (hcd.mp hc)]
    exact pos hc
  · rw [if_neg hc, if_neg (mt hcd.mpr hc)]
    exact neg hc

theorem SameNext.mapNext {f : State → State} {o p : Result} (h : SameNext o p)
    (hf : ∀ {u v}, SameToHost u v → SameToHost (f u) (f v)) : SameNext (mapNext f o) (mapNext f p) := by
  obtain ⟨u, v, rfl, rfl, huv⟩ := h
  exact .next (hf huv)

namespace SameToHost
variable {s t : State}

/-! ### What the relation gives -/

theorem accepts (h : SameToHost s t) : s.accepts = t.accepts := by
  simp only [State.accepts, State.cmdReady, h.st, h.pins]

theorem nb (h : SameToHost s t) (alive : s.alive = true) : s.nb = t.nb := by
  rw [State.nb, (h.strip alive).1, State.nb]

theorem pmask (h : SameToHost s t) (alive : s.alive = true) : s.pmask = t.pmask := by
  rw [State.pmask, (h.strip alive).2.1, State.pmask]

/-- R63: without a strip there are no bytes in either state. -/
theorem hasByte (h : SameToHost s t) (a : Nat) : s.hasByte a = t.hasByte a := by
  cases alive : s.alive
  · simp [State.hasByte, alive, ← h.alive]
  · obtain ⟨-, -, hbuf, -⟩ := h.strip alive
    simp only [State.hasByte, h.alive, hbuf, h.nb alive]

theorem inRange (h : SameToHost s t) (idx : Idx) : s.inRange idx = t.inRange idx := by
  cases alive : s.alive
  · simp [State.inRange, alive, ← h.alive]
  · obtain ⟨hnum, -, hbuf, -⟩ := h.strip alive
    simp only [State.inRange, h.alive, hnum, hbuf]

theorem read_of_hasByte (h : SameToHost s t) {a : Nat} (byte : s.hasByte a = true) : s.buf.read a = t.buf.read a :=
  let ⟨alive, buf, lt⟩ := State.hasByte_eq_true.mp byte
  h.bytes alive buf a lt

/-- R190: the latch test reads `last_end` only after a frame. -/
theorem latchOk (h : SameToHost s t) (alive : s.alive = true) (now : Time) : s.latchOk now = t.latchOk now := by
  obtain ⟨-, -, -, -, hvalid⟩ := h.strip alive
  cases valid : s.lastValid
  · simp [State.latchOk, valid, ← hvalid]
  · simp only [State.latchOk, hvalid, h.cfg, h.lastEnd alive valid]

/-- R33: without a strip the external write reads no pin. -/
theorem extPort (h : SameToHost s t) : s.extPort = t.extPort := by
  have hmask : s.extMask = t.extMask := by
    cases alive : s.alive
    · simp [State.extMask, alive, ← h.alive, h.pins]
    · simp [State.extMask, alive, ← h.alive, h.pins, h.pmask alive]
  simp only [State.extPort, hmask, h.pins, h.port]

theorem nextPins (h : SameToHost s t) : s.nextPins = t.nextPins := by
  simp only [State.nextPins, h.future, h.draws]

theorem nextDraws (h : SameToHost s t) : s.nextDraws = t.nextDraws := by
  simp only [State.nextDraws, h.future, h.draws]

/-- R43: the outputs are functions of what the relation keeps equal. -/
theorem observe (h : SameToHost s t) : s.observe = t.observe := by
  have hrsp : (if s.rspValid then some (s.rspCode, s.rspData) else none) =
      if t.rspValid then some (t.rspCode, t.rspData) else none := by
    cases valid : s.rspValid
    · simp [← h.rspValid, valid]
    · simp [← h.rspValid, valid, h.rsp valid]
  have hdout : s.dout = t.dout := by
    cases alive : s.alive
    · simp [State.dout, alive, ← h.alive]
    · simp only [State.dout, h.alive, h.dir, h.port, (h.strip alive).2.1]
  simp only [State.observe, hrsp, hdout, State.cmdReady, State.busy, State.crit, h.st, h.port]

/-! ### What every cycle does besides -/

theorem nextInputs (h : SameToHost s t) : SameToHost s.nextInputs t.nextInputs :=
  { h with
    pins := h.nextPins
    future := congrArg List.tail h.future
    draws := h.nextDraws }

theorem beginCycle (h : SameToHost s t) : SameToHost s.beginCycle t.beginCycle :=
  { h with
    port := h.extPort
    rspValid := rfl
    rsp := fun hv => by simp at hv }

theorem resetCycle (h : SameToHost s t) : SameToHost s.resetCycle t.resetCycle where
  alive := rfl
  dir := rfl
  st := rfl
  port := rfl
  rspValid := rfl
  rsp _ := ⟨rfl, rfl⟩
  strip _ := ⟨rfl, rfl, rfl, rfl, rfl⟩
  lastEnd _ _ := rfl
  bytes _ _ _ _ := rfl
  frame _ := ⟨rfl, rfl, rfl, rfl, rfl, rfl⟩
  pins := h.nextPins
  future := congrArg List.tail h.future
  draws := h.nextDraws
  cfg := h.cfg

theorem respond (h : SameToHost s t) (c : RspCode) (d : Packed) : SameToHost (s.respond c d) (t.respond c d) :=
  { h with
    rspValid := rfl
    rsp := fun _ => ⟨rfl, rfl⟩ }

theorem answer (h : SameToHost s t) (d : Packed) : SameNext (answer s d) (answer t d) := .next (h.respond .ok d)

theorem raise (h : SameToHost s t) (c : RspCode) : SameNext (raise c s) (raise c t) := .next (h.respond c 0)

/-! ### The commands -/

theorem needStrip (h : SameToHost s t) {k l : State → Result} (hkl : s.alive = true → SameNext (k s) (l t)) :
    SameNext (needStrip s k) (needStrip t l) :=
  .ite (by rw [h.alive]) hkl fun _ => h.raise .noStrip

theorem clearPinBit (h : SameToHost s t) (alive : s.alive = true) : SameToHost s.clearPinBit t.clearPinBit :=
  { h with port := by rw [State.clearPinBit_port, State.clearPinBit_port, h.port, h.pmask alive] }

/-- R181: every register and byte of the new strip is written, so nothing of what was there before is left. -/
theorem execConstruct (h : SameToHost s t) (n : Idx) (pinid : Byte) :
    SameNext (execConstruct n pinid s) (execConstruct n pinid t) := by
  have halloc : s.allocates n = t.allocates n := by simp only [State.allocates, h.pins, h.cfg]
  refine .ite (by rw [h.alive]) (fun _ => h.raise .already) fun _ => .ite .rfl (fun _ => h.raise .illegal) fun _ => ?_
  refine SameToHost.answer ?_ 0
  exact { h with
    alive := rfl
    strip := fun _ => ⟨rfl, rfl, halloc, rfl, rfl⟩
    lastEnd := fun _ _ => rfl
    bytes := fun _ hbuf a ha => by
      dsimp only [State.nb] at hbuf ha
      simp [← halloc, hbuf, Memory.read_clearBelow, ha] }

theorem execDestroy (h : SameToHost s t) : SameNext (execDestroy s) (execDestroy t) :=
  h.needStrip fun alive => by
    refine SameToHost.answer ?_ 0
    exact { h.clearPinBit alive with
      alive := rfl
      dir := rfl
      strip := fun ha => by simp at ha
      lastEnd := fun ha => by simp at ha
      bytes := fun ha => by simp at ha }

theorem execBegin (h : SameToHost s t) : SameNext (execBegin s) (execBegin t) :=
  h.needStrip fun alive => by
    refine SameToHost.answer ?_ 0
    exact { h.clearPinBit alive with dir := rfl }

/-- The first WAIT cycle is outside the frame, so the sequencer registers need not agree. -/
theorem execShow (h : SameToHost s t) : SameNext (execShow s) (execShow t) :=
  h.needStrip fun alive =>
    have hbuf : s.bufOk = t.bufOk := (h.strip alive).2.2.1
    .ite (by rw [hbuf]) (fun _ => .next { h with st := rfl, frame := fun hf => absurd hf (by simp) }) fun _ => h.answer 0

theorem withPixel (h : SameToHost s t) (hs : Memory.wf s.buf = true) (ht : Memory.wf t.buf = true) (alive : s.alive = true)
    (idx : Idx) (r g b : Byte) : SameToHost (s.withPixel idx r g b) (t.withPixel idx r g b) where
  __ := h
  bytes _ buf a ha := by
    obtain ⟨-, -, -, hbright, -⟩ := h.strip alive
    simp only [State.withPixel, hbright]
    have red := Memory.read_write_congr hs ht (pixelAddr idx 0) (scale r t.bright) (h.bytes alive buf a ha)
    have hs := Memory.wf_write (pixelAddr idx 0) (scale r t.bright) hs
    have ht := Memory.wf_write (pixelAddr idx 0) (scale r t.bright) ht
    have blue := Memory.read_write_congr hs ht (pixelAddr idx 1) (scale b t.bright) red
    exact Memory.read_write_congr (Memory.wf_write _ _ hs) (Memory.wf_write _ _ ht) _ _ blue

theorem setPixel (h : SameToHost s t) (hs : Memory.wf s.buf = true) (ht : Memory.wf t.buf = true) (idx : Idx) (r g b : Byte) :
    SameNext (setPixel idx r g b s) (setPixel idx r g b t) := by
  rw [setPixel_eq, setPixel_eq, ← h.inRange, ← h.alive]
  refine .next ?_
  split
  · next alive =>
    split
    · exact (h.withPixel hs ht alive idx r g b).respond .ok 0
    · exact h.respond .ok 0
  · exact h.respond .noStrip 0

/-- R106: the three bytes read are bytes of the strip. -/
theorem execGetpix (h : SameToHost s t) (idx : Idx) : SameNext (execGetpix idx s) (execGetpix idx t) := by
  rw [execGetpix_eq, execGetpix_eq, ← h.inRange, ← h.alive]
  refine .next ?_
  split
  · split
    · next range =>
      have hread {k : Nat} (hk : k < 3) : s.buf.read (pixelAddr idx k) = t.buf.read (pixelAddr idx k) :=
        h.read_of_hasByte (State.hasByte_pixelAddr range hk)
      rw [hread (k := 0) (by omega), hread (k := 1) (by omega), hread (k := 2) (by omega)]
      exact h.respond .ok _
    · exact h.respond .ok 0
  · exact h.respond .noStrip 0

theorem execSetbright (h : SameToHost s t) (level : Byte) : SameNext (execSetbright level s) (execSetbright level t) :=
  h.needStrip fun alive => by
    obtain ⟨hnum, hpin, hbuf, -, hvalid⟩ := h.strip alive
    refine SameToHost.answer ?_ 0
    exact { h with strip := fun _ => ⟨hnum, hpin, hbuf, rfl, hvalid⟩ }

theorem execNumpix (h : SameToHost s t) : SameNext (execNumpix s) (execNumpix t) :=
  h.needStrip fun alive => by
    rw [(h.strip alive).1]
    exact h.answer _

theorem exec (h : SameToHost s t) (hs : Memory.wf s.buf = true) (ht : Memory.wf t.buf = true) (i : Instr) :
    SameNext (exec i s) (exec i t) := by
  cases i with
  | construct n pinid => exact h.execConstruct n pinid
  | destroy => exact h.execDestroy
  | beginStrip => exact h.execBegin
  | showFrame => exact h.execShow
  | setpixRgb idx r g b => exact h.setPixel hs ht idx r g b
  | setpixPacked idx p => exact h.setPixel hs ht idx (unpackR p) (unpackG p) (unpackB p)
  | getpix idx => exact h.execGetpix idx
  | setbright level => exact h.execSetbright level
  | numpix => exact h.execNumpix
  | color r g b => exact h.answer (pack r g b)
  | reserved0x0 | reserved0xB | reserved0xC | reserved0xD | reserved0xE | reserved0xF => exact h.raise .illegal

/-! ### The sequencer -/

/-- The line levels of a frame (R146) are those of the strip's pin. -/
theorem lineHigh_lineLow (h : SameToHost s t) (alive : s.alive = true) :
    s.lineHigh = t.lineHigh ∧ s.lineLow = t.lineLow := by
  simp only [State.lineHigh, State.lineLow, h.port, h.pmask alive, and_self]

/-- R152: the byte loaded is one of the strip, and the other sequencer registers are set from it. -/
theorem load (h : SameToHost s t) {s' t' : State} (h' : SameToHost s' t') {k : Nat} (byte : s.hasByte k = true)
    {hi : PortWord} (snapHi : s'.snapHi = t'.snapHi) (snapLo : s'.snapLo = t'.snapLo) :
    SameNext (load k hi s s') (load k hi t t') := by
  rw [load_of_hasByte _ _ byte, load_of_hasByte _ _ (h.hasByte k ▸ byte), ← h.read_of_hasByte byte, ← h.cfg]
  exact .next { h' with
    st := rfl
    port := rfl
    frame := fun _ => ⟨rfl, rfl, rfl, rfl, snapHi, snapLo⟩ }

theorem seqWait (h : SameToHost s t) (hs : s.Inv) (wait : s.st = .wait) :
    SameNext (seqWait s s.beginCycle) (seqWait t t.beginCycle) := by
  have busy : s.st ≠ .idle := by simp [wait]
  have alive := hs.alive_of_busy busy
  obtain ⟨hhi, hlo⟩ := h.lineHigh_lineLow alive
  have hnb := h.nb alive
  refine .ite (by rw [h.latchOk alive, h.pins]) (fun _ => .ite (by rw [hnb]) (fun _ => .next ?_) fun nonempty => ?_)
    fun _ => .next h.beginCycle
  · exact { h.beginCycle with st := rfl, frame := fun hf => absurd hf (by simp) }
  · have byte : s.hasByte 0 = true := State.hasByte_eq_true.mpr ⟨alive, hs.busyBuf busy, Nat.pos_of_ne_zero nonempty⟩
    rw [← hhi, ← hlo]
    refine h.load ?_ byte rfl rfl
    exact { h.beginCycle with frame := fun hf => absurd hf (by simp [wait]) }

theorem seqHigh (h : SameToHost s t) (high : s.st = .high) :
    SameNext (seqHigh s s.beginCycle) (seqHigh t t.beginCycle) := by
  obtain ⟨hbyte, hbit, hcur, hcnt, hhi, hlo⟩ := h.frame (.inl high)
  refine .ite (by rw [hcnt]) (fun _ => .next ?_) fun _ => .next ?_
  · exact { h.beginCycle with frame := fun _ => ⟨hbyte, hbit, hcur, congrArg (· - 1) hcnt, hhi, hlo⟩ }
  · have hcurBit : s.curBit = t.curBit := by simp only [State.curBit, hcur, hbit]
    exact { h.beginCycle with
      st := rfl
      port := hlo
      frame := fun _ => ⟨hbyte, hbit, hcur, by rw [h.cfg, hcurBit], hhi, hlo⟩ }

theorem seqLow (h : SameToHost s t) (hs : s.Inv) (low : s.st = .low) :
    SameNext (seqLow s s.beginCycle) (seqLow t t.beginCycle) := by
  have inFrame : s.inFrame := .inr (.inl low)
  have busy := State.busy_of_inFrame inFrame
  have alive := hs.alive_of_busy busy
  obtain ⟨hbyte, hbit, hcur, hcnt, hhi, hlo⟩ := h.frame inFrame
  have hnb := h.nb alive
  refine .ite (by rw [hcnt]) (fun _ => .next ?_) fun _ => .ite (by rw [hbit]) (fun _ => .next ?_) fun _ =>
    .ite (by rw [hbyte, hnb]) (fun more => .ite (by rw [h.cfg]) (fun _ => .next ?_) fun _ => ?_) fun _ => .next ?_
  · exact { h.beginCycle with frame := fun _ => ⟨hbyte, hbit, hcur, congrArg (· - 1) hcnt, hhi, hlo⟩ }
  · exact { h.beginCycle with
      st := rfl
      port := hhi
      frame := fun _ => ⟨hbyte, congrArg (· - 1) hbit, hcur, by rw [h.cfg, hcur, hbit], hhi, hlo⟩ }
  · exact { h.beginCycle with
      st := rfl
      frame := fun _ => ⟨hbyte, hbit, hcur, by rw [h.cfg], hhi, hlo⟩ }
  · rw [← hbyte, ← hhi]
    exact h.load h.beginCycle (State.hasByte_eq_true.mpr ⟨alive, hs.busyBuf busy, more⟩) hhi hlo
  · exact { h.beginCycle with st := rfl, frame := fun hf => absurd hf (by simp) }

theorem seqGap (h : SameToHost s t) (hs : s.Inv) (gap : s.st = .gap) :
    SameNext (seqGap s s.beginCycle) (seqGap t t.beginCycle) := by
  have inFrame : s.inFrame := .inr (.inr gap)
  have busy := State.busy_of_inFrame inFrame
  obtain ⟨hbyte, hbit, hcur, hcnt, hhi, hlo⟩ := h.frame inFrame
  obtain ⟨-, -, more, -⟩ := hs.gapPhase gap
  refine .ite (by rw [hcnt]) (fun _ => .next ?_) fun _ => ?_
  · exact { h.beginCycle with frame := fun _ => ⟨hbyte, hbit, hcur, congrArg (· - 1) hcnt, hhi, hlo⟩ }
  · rw [← hbyte, ← hhi]
    exact h.load h.beginCycle (State.hasByte_eq_true.mpr ⟨hs.alive_of_busy busy, hs.busyBuf busy, more⟩) hhi hlo

/-- R158: the time recorded is an input. -/
theorem seqDone (h : SameToHost s t) : SameNext (seqDone s s.beginCycle) (seqDone t t.beginCycle) := by
  refine SameToHost.answer ?_ 0
  exact { h.beginCycle with
    st := rfl
    strip := fun alive =>
      let ⟨hnum, hpin, hbuf, hbright, _⟩ := h.strip alive
      ⟨hnum, hpin, hbuf, hbright, rfl⟩
    lastEnd := fun _ _ => congrArg Inputs.nowUs h.pins
    frame := fun hf => absurd hf (by simp) }

theorem sequencer (h : SameToHost s t) (hs : s.Inv) : SameNext (sequencer s s.beginCycle) (sequencer t t.beginCycle) := by
  unfold Machine.sequencer
  rw [← h.st]
  cases st : s.st with
  | idle => exact .next h.beginCycle
  | wait => exact h.seqWait hs st
  | high => exact h.seqHigh st
  | low => exact h.seqLow hs st
  | gap => exact h.seqGap hs st
  | done => exact h.seqDone

/-! ### Cycles and runs -/

theorem step (h : SameToHost s t) (hs : s.Inv) (ht : t.Inv) : SameNext (step s) (step t) :=
  .ite (by rw [h.pins]) (fun _ => .next h.resetCycle) fun _ =>
    .ite (by rw [h.accepts])
      (fun _ => by
        have hfetch : s.fetch = t.fetch := congrArg Inputs.cmdWord h.pins
        rw [← hfetch]
        exact (h.beginCycle.exec hs.memWf ht.memWf _).mapNext nextInputs)
      fun _ => (h.sequencer hs).mapNext nextInputs

theorem runFor (h : SameToHost s t) (hs : s.Inv) (ht : t.Inv) (n : Nat) : SameNext (runFor n s) (runFor n t) := by
  induction n generalizing s t with
  | zero => exact .next h
  | succ n ih =>
    obtain ⟨u, v, hu, hv, huv⟩ := h.step hs ht
    rw [runFor_succ hu, runFor_succ hv]
    exact ih huv (hs.of_step hu) (ht.of_step hv)

end SameToHost

/-- Settles O52, by the simulation `SameToHost.step`, iterated over the run. -/
theorem hiddenStateNeverReachesTheHost : Obligations.HiddenStateNeverReachesTheHost := fun n _ _ hs ht h =>
  let ⟨u, v, hu, hv, huv⟩ := h.runFor hs ht n
  ⟨u, v, hu, hv, huv, huv.observe⟩

end Sys2Proof.Machine
end

section
/-! PROOFS. The cycle, its port and its response (O8, O11, O13, O14, O35), and the writers of each element of the state (O33, O55): one
lemma for each element says which commands write it, and `SeqCase` gives what the sequencer leaves alone. -/

namespace Sys2Proof.Machine

/-! ### The external write, bit by bit (R33) -/

theorem State.pmask_getLsbD (s : State) {k : Nat} (hk : k < 8) : s.pmask.getLsbD k = true ↔ s.pin.toNat = k := by
  have one : (1 : PortWord) = 1#8 := rfl
  rw [State.pmask, one, BitVec.getLsbD_shiftLeft, BitVec.getLsbD_one]
  simp only [Bool.and_eq_true, Bool.not_eq_true', decide_eq_true_eq, decide_eq_false_iff_not]
  omega

/-- The bits an external write reaches. -/
theorem State.extMask_getLsbD (s : State) {k : Nat} (hk : k < 8) :
    s.extMask.getLsbD k = true ↔ s.pins.extWrMask.getLsbD k = true ∧ ¬(s.alive = true ∧ s.pin.toNat = k) := by
  have full : (0xFF : PortWord) = BitVec.allOnes 8 := rfl
  rw [← s.pmask_getLsbD hk, State.extMask, full, BitVec.getLsbD_and]
  by_cases alive : s.alive = true
  · rw [if_pos alive, BitVec.getLsbD_not]
    simp [alive, hk]
  · rw [if_neg alive, BitVec.getLsbD_allOnes]
    simp [alive, hk]

theorem State.extPort_getLsbD (s : State) {k : Nat} (hk : k < 8) :
    s.extPort.getLsbD k =
      if s.pins.extWrEn = true ∧ s.pins.extWrMask.getLsbD k = true ∧ ¬(s.alive = true ∧ s.pin.toNat = k) then
        s.pins.extWrVal.getLsbD k
      else s.port.getLsbD k := by
  simp only [← s.extMask_getLsbD hk]
  by_cases en : s.pins.extWrEn = true
  · rw [State.extPort, if_pos en, BitVec.getLsbD_or, BitVec.getLsbD_and, BitVec.getLsbD_and, BitVec.getLsbD_not]
    cases s.extMask.getLsbD k <;> simp [en, hk]
  · simp [State.extPort, en]

/-! ### A cycle with a command, and one without -/

theorem sequencer_of_idle {s : State} (idle : s.st = .idle) (s' : State) : sequencer s s' = .next s' := by
  rw [sequencer, idle]

/-- Settles O11: the state given to `exec` is `State.beginCycle`. -/
theorem stepRunsDecodedCommand : Obligations.StepRunsDecodedCommand := by
  rintro s _ rst idle valid rfl
  exact step_of_accepts rst (State.accepts_eq_true.mpr ⟨idle, valid⟩)

/-- Settles O13: without a command the sequencer leaves the idle state as the external write left it. -/
theorem idleCycleAppliesExternalWrite : Obligations.IdleCycleAppliesExternalWrite := by
  intro s rst idle noCmd
  refine ⟨s.extPort, State.stepsTo_of_next ?_, fun k hk => s.extPort_getLsbD hk⟩
  have notAccepted : s.accepts = false := by simp [State.accepts, noCmd]
  rw [step_of_not_accepts rst notAccepted, sequencer_of_idle idle]
  rfl

/-! ### The reset state and the driven line -/

/-- Settles O8: the parameters meet R9, and every other field speaks of registers that are 0 or of an empty buffer. -/
theorem resetStateMeetsInvariant : Obligations.ResetStateMeetsInvariant :=
  .of_not_inFrame (State.not_inFrame_of_idle rfl) fun frame => { frame with
    params := config_params_valid
    memWf := State.reset_buf_wf
    memCap := fun _ hc => absurd hc List.not_mem_nil
    bufAlive := id
    bufFits := fun hb => absurd hb Bool.false_ne_true
    deadInput := fun _ => rfl
    busyBuf := fun hs => absurd rfl hs
    rspIdle := fun _ => rfl
    rspTop := Nat.two_pow_pos _
    errData := fun _ => rfl
    cntFits := Nat.two_pow_pos _
    unsent := fun _ => rfl
    lineIdle := fun hd => by cases hd }

/-- Settles O35, from the line's level in the high phases and outside them. -/
theorem drivenLineIsHighOnlyInHighPhase : Obligations.DrivenLineIsHighOnlyInHighPhase := by
  intro s h out
  have line : s.dout = if s.pinLevel then .one else .zero := by simp [State.dout, h.alive_of_output out, out]
  rw [line]
  by_cases high : s.st = .high
  · rw [if_pos high, if_pos (h.highPhase high).2]
  · rw [if_neg high, if_neg (by simp [h.lineIdle out high])]

/-! ### The response strobe (R39) -/

theorem execShow_starts {s : State} (alive : s.alive = true) (buf : s.bufOk = true) :
    execShow s = .next { s with st := .wait } := by
  rw [execShow, needStrip_alive _ alive, if_pos buf]

/-- Every command raises the strobe, but a SHOW that starts a frame. -/
theorem ExecCase.rspValid_of_not_show {i : Instr} {s t : State} (h : ExecCase i s t)
    (notShow : ¬(i = .showFrame ∧ s.alive = true ∧ s.bufOk = true)) : t.rspValid = true := by
  cases h with
  | showFrame instr alive buf => exact absurd ⟨instr, alive, buf⟩ notShow
  | respond _ _ _ _ eq | construct _ _ _ _ _ eq | destroy _ _ eq | beginStrip _ _ eq | pixel _ _ _ _ _ _ eq
  | setbright _ _ _ eq => rw [eq, State.respond_rspValid]

theorem exec_rspValid_iff {i : Instr} {s t : State} (h : exec i s = .next t) (clear : s.rspValid = false) :
    t.rspValid = true ↔ ¬(i = .showFrame ∧ s.alive = true ∧ s.bufOk = true) := by
  refine ⟨?_, (exec_cases h).rspValid_of_not_show⟩
  rintro hv ⟨rfl, alive, buf⟩
  injection (execShow_starts alive buf).symm.trans h with eq
  simp [← eq, clear] at hv

/-- The sequencer raises the strobe in DONE alone (R158). -/
theorem SeqCase.rspValid_iff {s s' t : State} (h : SeqCase s s' t) (clear : s'.rspValid = false) :
    t.rspValid = true ↔ s.st = .done := by
  cases h with
  | finish st eq => simp [eq, st]
  | stay st eq => rcases st with st | ⟨st, -⟩ <;> simp [eq, st, clear]
  | count st _ eq => rcases st with st | st | st <;> simp [eq, st, clear]
  | nextByte st _ _ eq => rcases st with ⟨st, -⟩ | st <;> simp [eq, st, clear]
  | waitEmpty st _ _ eq | waitLoad st _ _ _ eq | fall st _ eq | nextBit st _ _ eq | toGap st _ _ _ _ eq | last st _ _ _ eq =>
    simp [eq, st, clear]

/-- Settles O14, by the cases of what a cycle can do. -/
theorem responseStrobeLastsOneCycle : Obligations.ResponseStrobeLastsOneCycle := by
  intro s t hs
  cases step_cases hs with
  | reset rst eq => simp [eq, rst]
  | command rst idle valid u he eq =>
    rw [eq, State.nextInputs_rspValid, exec_rspValid_iff he s.beginCycle_rspValid]
    simp [rst, idle, valid]
  | sequencer rst noCmd u hq eq =>
    have notAccepted : ¬(s.st = .idle ∧ s.pins.cmdValid = true) := fun ⟨idle, valid⟩ => by simp [noCmd idle] at valid
    rw [eq, State.nextInputs_rspValid, (sequencer_cases hq).rspValid_iff s.beginCycle_rspValid]
    simp only [rst, true_and, ← and_assoc, notAccepted, false_and, or_false]

/-! ### The commands that write an element (R45, R42) -/

namespace ExecCase
variable {i : Instr} {s t : State}

theorem writes_bright (h : ExecCase i s t) (changed : t.bright ≠ s.bright) :
    (∃ l, i = .setbright l) ∨ ∃ n p, i = .construct n p := by
  cases h with
  | setbright l instr => exact .inl ⟨l, instr⟩
  | construct n p instr => exact .inr ⟨n, p, instr⟩
  | respond _ _ _ _ eq | destroy _ _ eq | beginStrip _ _ eq | showFrame _ _ _ eq | pixel _ _ _ _ _ _ eq =>
    exact absurd (congrArg State.bright eq) changed

/-- DESTROY leaves no byte that can be read. -/
theorem writes_byte (h : ExecCase i s t) {a : Nat} (alive : t.alive = true) (changed : t.memRead a ≠ s.memRead a) :
    (∃ idx r g b, i = .setpixRgb idx r g b) ∨ (∃ idx p, i = .setpixPacked idx p) ∨ ∃ n p, i = .construct n p := by
  cases h with
  | pixel idx r g b instr =>
    obtain instr | ⟨p, instr, -⟩ := instr
    · exact .inl ⟨idx, r, g, b, instr⟩
    · exact .inr (.inl ⟨idx, p, instr⟩)
  | construct n p instr => exact .inr (.inr ⟨n, p, instr⟩)
  | destroy _ _ eq => simp [eq] at alive
  | respond _ _ _ _ eq | beginStrip _ _ eq | showFrame _ _ _ eq | setbright _ _ _ eq =>
    exact absurd (congrArg (State.memRead · a) eq) changed

/-- Only CONSTRUCT writes the LED count, the pin and the record of the last frame. -/
theorem construct_of_changed (h : ExecCase i s t)
    (changed : ¬((t.numLeds = s.numLeds ∧ t.pin = s.pin) ∧ t.lastEnd = s.lastEnd ∧ t.lastValid = s.lastValid)) :
    ∃ n p, i = .construct n p := by
  cases h with
  | construct n p instr => exact ⟨n, p, instr⟩
  | respond _ _ _ _ eq | destroy _ _ eq | beginStrip _ _ eq | showFrame _ _ _ eq | pixel _ _ _ _ _ _ eq
  | setbright _ _ _ eq => subst eq; exact absurd ⟨⟨rfl, rfl⟩, rfl, rfl⟩ changed

theorem writes_dir_port (h : ExecCase i s t) (changed : ¬(t.dir = s.dir ∧ t.port = s.port)) :
    i = .beginStrip ∨ i = .destroy := by
  cases h with
  | beginStrip instr => exact .inl instr
  | destroy instr => exact .inr instr
  | respond _ _ _ _ eq | construct _ _ _ _ _ eq | showFrame _ _ _ eq | pixel _ _ _ _ _ _ eq | setbright _ _ _ eq =>
    subst eq; exact absurd ⟨rfl, rfl⟩ changed

theorem writes_alive (h : ExecCase i s t) (changed : t.alive ≠ s.alive) :
    (∃ n p, i = .construct n p) ∧ t.alive = true ∨ i = .destroy ∧ t.alive = false := by
  cases h with
  | construct n p instr _ _ eq => exact .inl ⟨⟨n, p, instr⟩, congrArg State.alive eq⟩
  | destroy instr _ eq => exact .inr ⟨instr, congrArg State.alive eq⟩
  | respond _ _ _ _ eq | beginStrip _ _ eq | showFrame _ _ _ eq | pixel _ _ _ _ _ _ eq | setbright _ _ _ eq =>
    exact absurd (congrArg State.alive eq) changed

theorem writes_bufOk (h : ExecCase i s t) (changed : t.bufOk ≠ s.bufOk) :
    (∃ n p, i = .construct n p) ∨ i = .destroy ∧ t.bufOk = false := by
  cases h with
  | construct n p instr => exact .inl ⟨n, p, instr⟩
  | destroy instr _ eq => exact .inr ⟨instr, congrArg State.bufOk eq⟩
  | respond _ _ _ _ eq | beginStrip _ _ eq | showFrame _ _ _ eq | pixel _ _ _ _ _ _ eq | setbright _ _ _ eq =>
    exact absurd (congrArg State.bufOk eq) changed

theorem writes_st (h : ExecCase i s t) (changed : t.st ≠ s.st) : i = .showFrame := by
  cases h with
  | showFrame instr => exact instr
  | respond _ _ _ _ eq | construct _ _ _ _ _ eq | destroy _ _ eq | beginStrip _ _ eq | pixel _ _ _ _ _ _ eq
  | setbright _ _ _ eq => exact absurd (congrArg State.st eq) changed

/-- No command writes the sequencer's registers (R32). -/
theorem keeps_sequencer (h : ExecCase i s t) :
    (t.byteIdx = s.byteIdx ∧ t.bitIdx = s.bitIdx ∧ t.curByte = s.curByte ∧ t.cnt = s.cnt) ∧
      t.snapHi = s.snapHi ∧ t.snapLo = s.snapLo := by
  cases h with
  | respond _ _ _ _ eq | construct _ _ _ _ _ eq | destroy _ _ eq | beginStrip _ _ eq | showFrame _ _ _ eq
  | pixel _ _ _ _ _ _ eq | setbright _ _ _ eq => subst eq; exact ⟨⟨rfl, rfl, rfl, rfl⟩, rfl, rfl⟩

/-- NUMPIX, GETPIX and COLOR only respond. -/
theorem respond_of_query (h : ExecCase i s t)
    (query : i = .numpix ∨ (∃ idx, i = .getpix idx) ∨ ∃ r g b, i = .color r g b) : ∃ c d, t = s.respond c d := by
  cases h with
  | respond c d _ _ eq => exact ⟨c, d, eq⟩
  | pixel idx r g b instr => rcases instr with rfl | ⟨p, rfl, -⟩ <;> simp at query
  | construct _ _ instr | destroy instr | beginStrip instr | showFrame instr | setbright _ instr =>
    subst instr
    simp at query

/-- SHOW responds or starts WAIT. -/
theorem respond_or_wait_of_show (h : ExecCase .showFrame s t) : (∃ c d, t = s.respond c d) ∨ t = { s with st := .wait } := by
  cases h with
  | respond c d _ _ eq => exact .inl ⟨c, d, eq⟩
  | showFrame _ _ _ eq => exact .inr eq
  | pixel idx r g b instr => simp at instr
  | construct _ _ instr | destroy instr | beginStrip instr | setbright _ instr => cases instr

end ExecCase

/-! ### What the sequencer leaves alone (R45, R42) -/

/-- The two states hold the same strip, but for the time of its last frame. -/
structure State.SameStrip (t s : State) : Prop where
  alive : t.alive = s.alive
  numLeds : t.numLeds = s.numLeds
  pin : t.pin = s.pin
  bufOk : t.bufOk = s.bufOk
  bright : t.bright = s.bright
  dir : t.dir = s.dir
  buf : t.buf = s.buf

theorem State.SameStrip.memRead {t s : State} (h : t.SameStrip s) (a : Nat) : t.memRead a = s.memRead a := by
  have nb : t.nb = s.nb := congrArg (fun n : Idx => 3 * n.toNat) h.numLeds
  have hasByte : t.hasByte a = s.hasByte a := by rw [State.hasByte, State.hasByte, h.alive, h.bufOk, nb]
  rw [State.memRead, State.memRead, hasByte, h.buf]

namespace SeqCase
variable {s s' t : State}

theorem sameStrip (h : SeqCase s s' t) : t.SameStrip s' := by
  cases h with
  | stay _ eq | waitEmpty _ _ _ eq | waitLoad _ _ _ _ eq | count _ _ eq | fall _ _ eq | nextBit _ _ _ eq | toGap _ _ _ _ _ eq
  | nextByte _ _ _ eq | last _ _ _ _ eq | finish _ eq => subst eq; exact ⟨rfl, rfl, rfl, rfl, rfl, rfl, rfl⟩

theorem done_of_last_changed (h : SeqCase s s' t) (changed : ¬(t.lastEnd = s'.lastEnd ∧ t.lastValid = s'.lastValid)) :
    s.st = .done := by
  cases h with
  | finish st => exact st
  | stay _ eq | waitEmpty _ _ _ eq | waitLoad _ _ _ _ eq | count _ _ eq | fall _ _ eq | nextBit _ _ _ eq | toGap _ _ _ _ _ eq
  | nextByte _ _ _ eq | last _ _ _ _ eq => subst eq; exact absurd ⟨rfl, rfl⟩ changed

theorem wait_of_snap_changed (h : SeqCase s s' t) (changed : ¬(t.snapHi = s'.snapHi ∧ t.snapLo = s'.snapLo)) :
    s.st = .wait := by
  cases h with
  | waitEmpty st | waitLoad st => exact st
  | stay _ eq | count _ _ eq | fall _ _ eq | nextBit _ _ _ eq | toGap _ _ _ _ _ eq | nextByte _ _ _ eq | last _ _ _ _ eq
  | finish _ eq => subst eq; exact absurd ⟨rfl, rfl⟩ changed

/-- In IDLE and DONE the sequencer writes neither its progress registers nor the port. -/
theorem keeps_outside (h : SeqCase s s' t) (out : ¬(s.st = .wait ∨ s.inFrame)) :
    (t.byteIdx = s'.byteIdx ∧ t.bitIdx = s'.bitIdx ∧ t.curByte = s'.curByte ∧ t.cnt = s'.cnt) ∧ t.port = s'.port := by
  cases h with
  | stay _ eq | finish _ eq => subst eq; exact ⟨⟨rfl, rfl, rfl, rfl⟩, rfl⟩
  | waitEmpty st | waitLoad st => exact absurd (.inl st) out
  | count st => exact absurd (.inr st) out
  | fall st => exact absurd (.inr (.inl st)) out
  | nextBit st | toGap st | last st => exact absurd (.inr (.inr (.inl st))) out
  | nextByte st => exact absurd (.inr (.inr (st.imp And.left id))) out

end SeqCase

/-! ### The writers of a cycle -/

/-- Settles O33: in a cycle with a command by the commands that write each element, in any other by what the sequencer keeps. -/
theorem onlyNamedWritersChangeState : Obligations.OnlyNamedWritersChangeState := by
  intro s t rst hs accepted
  cases step_cases hs with
  | reset rst' => simp [rst] at rst'
  | command _ idle valid u he eq =>
    subst eq
    have hu := exec_cases he
    have acc {i : Instr} (hi : decode s.pins.cmdWord = i) : accepted i := ⟨idle, valid, hi⟩
    have decoded {i : Instr} : accepted i → decode s.pins.cmdWord = i := fun ⟨_, _, hi⟩ => hi
    refine ⟨fun hne => ?_, fun a alive hne => ?_, fun hne => ?_, fun hne => ?_, fun hne => .inr ?_, fun query => ?_, fun hshow => ?_⟩
    · exact (hu.writes_bright hne).imp (.imp fun _ => acc) (.imp fun _ => .imp fun _ => acc)
    · exact (hu.writes_byte alive hne).imp (.imp fun _ => .imp fun _ => .imp fun _ => .imp fun _ => acc)
        (.imp (.imp fun _ => .imp fun _ => acc) (.imp fun _ => .imp fun _ => acc))
    · exact (hu.construct_of_changed fun ⟨hstrip, _⟩ => not_and_or.mpr hne hstrip).imp fun _ => .imp fun _ => acc
    · exact (hu.writes_dir_port fun ⟨hdir, _⟩ => hne hdir).imp acc acc
    · exact (hu.construct_of_changed fun ⟨_, hlast⟩ => not_and_or.mpr hne hlast).imp fun _ => .imp fun _ => acc
    · obtain ⟨c, d, rfl⟩ := hu.respond_of_query
        (query.imp decoded (.imp (.imp fun _ => decoded) (.imp fun _ => .imp fun _ => .imp fun _ => decoded)))
      rfl
    · rw [decoded hshow] at hu
      obtain ⟨c, d, rfl⟩ | rfl := hu.respond_or_wait_of_show <;> rfl
  | sequencer _ noCmd u hq eq =>
    subst eq
    have hu := sequencer_cases hq
    have same := hu.sameStrip
    have notAccepted {i : Instr} : ¬accepted i := fun ⟨idle, valid, _⟩ => by simp [noCmd idle] at valid
    refine ⟨fun hne => ?_, fun a _ hne => ?_, fun hne => ?_, fun hne => ?_, fun hne => ?_, fun query => ?_, fun hshow => ?_⟩
    · exact absurd same.bright hne
    · exact absurd (same.memRead a) hne
    · exact absurd ⟨same.numLeds, same.pin⟩ (not_and_or.mpr hne)
    · exact absurd same.dir hne
    · exact .inl (hu.done_of_last_changed (not_and_or.mpr hne))
    · obtain hacc | ⟨_, hacc⟩ | ⟨_, _, _, hacc⟩ := query <;> exact absurd hacc notAccepted
    · exact absurd hshow notAccepted

/-- Settles O55: in a cycle with a command by the commands that write each element, in any other by what the sequencer keeps. -/
theorem onlyNamedWritersChangeStripAndSequencer : Obligations.OnlyNamedWritersChangeStripAndSequencer := by
  intro s t rst hs accepted
  cases step_cases hs with
  | reset rst' => simp [rst] at rst'
  | command _ idle valid u he eq =>
    subst eq
    have hu := exec_cases he
    have acc {i : Instr} (hi : decode s.pins.cmdWord = i) : accepted i := ⟨idle, valid, hi⟩
    obtain ⟨⟨hbyte, hbit, hcur, hcnt⟩, hhi, hlo⟩ := hu.keeps_sequencer
    refine ⟨fun hne => ?_, fun hne => ?_, fun hne => .inl ?_, fun hne => ?_, fun hne => ?_, fun hne => ?_⟩
    · exact (hu.writes_alive hne).imp (.imp_left (.imp fun _ => .imp fun _ => acc)) (.imp_left acc)
    · exact (hu.writes_bufOk hne).imp (.imp fun _ => .imp fun _ => acc) (.imp_left acc)
    · exact acc (hu.writes_st hne)
    · simp [hbyte, hbit, hcur, hcnt] at hne
    · simp [hhi, hlo] at hne
    · exact (hu.writes_dir_port fun ⟨_, hport⟩ => hne hport).elim (.inl ∘ acc) (.inr ∘ .inl ∘ acc)
  | sequencer _ noCmd u hq eq =>
    subst eq
    have hu := sequencer_cases hq
    have same := hu.sameStrip
    refine ⟨fun hne => ?_, fun hne => ?_, fun hne => .inr fun idle => ?_, fun hne => ?_, fun hne => ?_, fun hne => ?_⟩
    · exact absurd same.alive hne
    · exact absurd same.bufOk hne
    · rw [sequencer_of_idle idle] at hq
      injection hq with eq
      subst eq
      exact hne rfl
    · by_contra out
      obtain ⟨⟨hbyte, hbit, hcur, hcnt⟩, -⟩ := hu.keeps_outside out
      simp [hbyte, hbit, hcur, hcnt] at hne
    · exact hu.wait_of_snap_changed (not_and_or.mpr hne)
    · by_contra out
      have out' : ¬(s.st = .wait ∨ s.inFrame) := fun hin => out (.inr (.inr hin))
      exact hne (hu.keeps_outside out').2

end Sys2Proof.Machine
end

section
/-! PROOFS. External writes against the sequencer's own (O46, O54). In a cycle with a phase write the sequencer's answer does not depend on
the port it is given. Over a frame, `State.cyclesLeft` counts the cycles to DONE: it falls by one in every cycle, and from the last low
phase on the port holds the low snapshot, which only the external writes of that phase could change. -/

namespace Sys2Proof.Machine

/-! ### The cycles with a phase write -/

/-- The sequencer writes the port in this cycle (R151 to R155). -/
def State.WritesPhase (s : State) : Prop :=
  s.st = .wait ∧ s.latchOk s.pins.nowUs = true ∧ s.numLeds ≠ 0 ∨
    s.st = .high ∧ s.cnt = 0 ∨
    s.st = .low ∧ s.cnt = 0 ∧ (s.bitIdx ≠ 0 ∨ s.cfg.tByteGap = 0 ∧ s.byteIdx.toNat + 1 < s.nb) ∨
    s.st = .gap ∧ s.cnt = 0

/-- The state with another external write in its cycle. -/
def State.withExtWrite (s : State) (en : Bool) (mask val : PortWord) : State :=
  { s with pins := { s.pins with extWrEn := en, extWrMask := mask, extWrVal := val } }

theorem State.nb_ne_zero {s : State} (h : s.numLeds ≠ 0) : s.nb ≠ 0 := by
  simpa [State.nb, BitVec.toNat_eq] using h

theorem State.WritesPhase.busy {s : State} (h : s.WritesPhase) : s.st ≠ .idle := by
  rcases h with ⟨st, -⟩ | ⟨st, -⟩ | ⟨st, -⟩ | ⟨st, -⟩ <;> simp [st]

/-- `LOAD` writes the port itself, and the next cycle has its own inputs. -/
theorem load_overrides_port (k : Nat) (hi : PortWord) (s s' : State) (port : PortWord) (pins : Inputs) :
    mapNext State.nextInputs (load k hi s { s' with port := port, pins := pins }) =
      mapNext State.nextInputs (load k hi s s') := by
  unfold load
  cases s.memRead k <;> rfl

/-- R78: a phase write overrides whatever port the cycle has so far. -/
theorem sequencer_overrides_port {s : State} (h : s.WritesPhase) (s' : State) (port : PortWord) (pins : Inputs) :
    mapNext State.nextInputs (sequencer s { s' with port := port, pins := pins }) =
      mapNext State.nextInputs (sequencer s s') := by
  rcases h with ⟨st, ok, leds⟩ | ⟨st, cnt⟩ | ⟨st, cnt, next⟩ | ⟨st, cnt⟩
  · simp only [sequencer, st, seqWait, ok, State.nb_ne_zero leds, if_true, if_false]
    exact load_overrides_port 0 s.lineHigh s { s' with snapHi := s.lineHigh, snapLo := s.lineLow } port pins
  · simp only [sequencer, st, seqHigh, cnt, ne_eq, not_true_eq_false, if_false]
    rfl
  · by_cases bit : s.bitIdx = 0
    · obtain ⟨gap, more⟩ := next.resolve_left (not_not_intro bit)
      simp only [sequencer, st, seqLow, cnt, bit, gap, more, ne_eq, not_true_eq_false, if_false, if_true, Nat.lt_irrefl]
      exact load_overrides_port _ _ s s' port pins
    · simp only [sequencer, st, seqLow, cnt, bit, ne_eq, not_true_eq_false, not_false_eq_true, if_false, if_true]
      rfl
  · simp only [sequencer, st, seqGap, cnt, ne_eq, not_true_eq_false, if_false]
    exact load_overrides_port _ _ s s' port pins

/-- The sequencer reads no external write: it reaches the cycle through the port of `State.beginCycle` alone. -/
theorem sequencer_withExtWrite (s s' : State) (en : Bool) (mask val : PortWord) :
    sequencer (s.withExtWrite en mask val) s' = sequencer s s' := rfl

theorem step_withExtWrite {s : State} (h : s.WritesPhase) (en : Bool) (mask val : PortWord) :
    step (s.withExtWrite en mask val) = step s := by
  cases rst : s.pins.rst
  · have other : (s.withExtWrite en mask val).pins.rst = false := rst
    rw [step_of_busy other h.busy, step_of_busy rst h.busy, sequencer_withExtWrite]
    exact sequencer_overrides_port h s.beginCycle _ _
  · have other : (s.withExtWrite en mask val).pins.rst = true := rst
    rw [step_of_rst other, step_of_rst rst]
    rfl

/-- Settles O46, by the cases of a phase write. -/
theorem phaseWriteOverridesExternalWrite : Obligations.PhaseWriteOverridesExternalWrite :=
  fun _ en mask val _ writes => step_withExtWrite writes en mask val

/-! ### What a cycle of the sequencer answers, and what it leaves alone -/

namespace State.Inv
variable {s : State}

/-- R62: while the sequencer is busy every byte of the strip can be read. -/
theorem hasByte_of_busy (h : s.Inv) (busy : s.st ≠ .idle) {k : Nat} (lt : k < s.nb) : s.hasByte k = true :=
  State.hasByte_eq_true.mpr ⟨h.alive_of_busy busy, h.busyBuf busy, lt⟩

/-- The sequencer never faults: every byte it loads is one of the strip. -/
theorem sequencer_next (h : s.Inv) (s' : State) : ∃ t, sequencer s s' = .next t := by
  have loads (busy : s.st ≠ .idle) {k : Nat} (lt : k < s.nb) (hi : PortWord) (s' : State) : ∃ t, load k hi s s' = .next t :=
    ⟨_, load_of_hasByte hi s' (h.hasByte_of_busy busy lt)⟩
  unfold sequencer
  cases st : s.st with
  | idle => exact ⟨_, rfl⟩
  | wait =>
    dsimp only [seqWait]
    split_ifs with ok empty
    · exact ⟨_, rfl⟩
    · exact loads (by simp [st]) (Nat.pos_of_ne_zero empty) _ _
    · exact ⟨_, rfl⟩
  | high =>
    dsimp only [seqHigh]
    split_ifs <;> exact ⟨_, rfl⟩
  | low =>
    dsimp only [seqLow]
    split_ifs with cnt bit more gap
    · exact ⟨_, rfl⟩
    · exact ⟨_, rfl⟩
    · exact ⟨_, rfl⟩
    · exact loads (by simp [st]) more _ _
    · exact ⟨_, rfl⟩
  | gap =>
    obtain ⟨-, -, more, -⟩ := h.gapPhase st
    dsimp only [seqGap]
    split_ifs
    · exact ⟨_, rfl⟩
    · exact loads (by simp [st]) more _ _
  | done => exact ⟨_, rfl⟩

end State.Inv

/-- The inputs of the cycles to come depend on no register. -/
theorem State.inputAt_succ_congr {s t : State} (future : t.future = s.future) (draws : t.draws = s.draws) (k : Nat) :
    t.inputAt (k + 1) = s.inputAt (k + 1) := by
  simp only [State.inputAt, future, draws]

theorem SeqCase.keeps_inputs_cfg {s s' t : State} (h : SeqCase s s' t) :
    (t.future = s'.future ∧ t.draws = s'.draws) ∧ t.cfg = s'.cfg := by
  cases h with
  | stay _ eq | waitEmpty _ _ _ eq | waitLoad _ _ _ _ eq | count _ _ eq | fall _ _ eq | nextBit _ _ _ eq | toGap _ _ _ _ _ eq
  | nextByte _ _ _ eq | last _ _ _ _ eq | finish _ eq => subst eq; exact ⟨⟨rfl, rfl⟩, rfl⟩

/-- In a busy cycle the sequencer answers by one of its cases, and without reset the cycle does what it answers. -/
theorem State.Inv.seqCase_of_busy {s : State} (h : s.Inv) (busy : s.st ≠ .idle) :
    ∃ u, SeqCase s s.beginCycle u ∧ (s.pins.rst = false → step s = .next u.nextInputs) := by
  obtain ⟨u, hu⟩ := h.sequencer_next s.beginCycle
  exact ⟨u, sequencer_cases hu, fun rst => by rw [step_of_busy rst busy, hu, mapNext_next]⟩

theorem SeqCase.inputAt_nextInputs {s u : State} (h : SeqCase s s.beginCycle u) (k : Nat) :
    u.nextInputs.inputAt k = s.inputAt (k + 1) := by
  obtain ⟨⟨future, draws⟩, -⟩ := h.keeps_inputs_cfg
  rw [State.inputAt_nextInputs, State.inputAt_succ_congr future draws]
  rfl

theorem SeqCase.noReset_nextInputs {n : Nat} {s u : State} (h : SeqCase s s.beginCycle u) (noReset : s.NoReset (n + 1)) :
    u.nextInputs.NoReset n := fun k hk => by
  rw [h.inputAt_nextInputs]
  exact noReset (k + 1) (Nat.succ_lt_succ hk)

/-! ### The cycles left of a frame (R140, R144, R157) -/

/-- The bit periods and gaps that follow the current bit. -/
def State.cyclesAfterBit (s : State) : Nat :=
  s.bitIdx.toNat * s.cfg.tbit + (s.nb - 1 - s.byteIdx.toNat) * (8 * s.cfg.tbit + s.cfg.tByteGap)

/-- The cycles of the frame from this one on, this one included. In a gap `cnt` stands for the gap being sent, which
`cyclesAfterBit` counts in full. -/
def State.cyclesLeft (s : State) : Nat :=
  match s.st with
  | .high => s.cnt + 1 + tl s.cfg s.curBit + s.cyclesAfterBit
  | .low => s.cnt + 1 + s.cyclesAfterBit
  | .gap => s.cnt + 1 + s.cyclesAfterBit - s.cfg.tByteGap
  | .idle => 0
  | .wait => 0
  | .done => 0

theorem th_add_tl {p : Params} (hp : p.Valid) (b : Bool) : th p b + tl p b = p.tbit := by
  unfold tl th
  split <;> omega

section
variable {s : State}

theorem State.cyclesLeft_high (st : s.st = .high) : s.cyclesLeft = s.cnt + 1 + tl s.cfg s.curBit + s.cyclesAfterBit := by
  rw [State.cyclesLeft, st]

theorem State.cyclesLeft_low (st : s.st = .low) : s.cyclesLeft = s.cnt + 1 + s.cyclesAfterBit := by
  rw [State.cyclesLeft, st]

theorem State.cyclesLeft_gap (st : s.st = .gap) : s.cyclesLeft = s.cnt + 1 + s.cyclesAfterBit - s.cfg.tByteGap := by
  rw [State.cyclesLeft, st]

theorem State.cyclesLeft_done (st : s.st = .done) : s.cyclesLeft = 0 := by
  rw [State.cyclesLeft, st]

/-- A bit that begins lasts its `TH` and its `TL`. -/
theorem State.cyclesLeft_startBit (hp : s.cfg.Valid) (st : s.st = .high) (cnt : s.cnt = th s.cfg s.curBit - 1) :
    s.cyclesLeft = s.cfg.tbit + s.cyclesAfterBit := by
  have pos := th_pos hp s.curBit
  have period := th_add_tl hp s.curBit
  rw [State.cyclesLeft_high st, cnt]
  omega

/-- With a byte to come, its eight bit periods and the gap before it are among the cycles after this byte's last bit. -/
theorem State.cyclesAfterBit_more (bit : s.bitIdx = 0) (more : s.byteIdx.toNat + 1 < s.nb) :
    s.cyclesAfterBit =
      8 * s.cfg.tbit + s.cfg.tByteGap + (s.nb - 1 - (s.byteIdx.toNat + 1)) * (8 * s.cfg.tbit + s.cfg.tByteGap) := by
  obtain ⟨e, he⟩ : ∃ e, s.nb - 1 - s.byteIdx.toNat = e + 1 := ⟨s.nb - 1 - s.byteIdx.toNat - 1, by omega⟩
  have he' : s.nb - 1 - (s.byteIdx.toNat + 1) = e := by omega
  rw [State.cyclesAfterBit, bit, he, he', Nat.succ_mul]
  simp [Nat.add_comm]

end

namespace SeqCase
variable {s t : State}

/-- A frame's cycles lead to a cycle of the frame or to DONE. -/
theorem inFrame_or_done (h : SeqCase s s.beginCycle t) (inFrame : s.inFrame) : t.inFrame ∨ t.st = .done := by
  cases h with
  | stay st => rcases st with st | ⟨st, -⟩ <;> exact absurd inFrame (by simp [st])
  | waitEmpty st | waitLoad st | finish st => exact absurd inFrame (by simp [st])
  | count _ _ eq => exact .inl (eq ▸ inFrame)
  | fall _ _ eq => exact .inl (eq ▸ .inr (.inl rfl))
  | toGap _ _ _ _ _ eq => exact .inl (eq ▸ .inr (.inr rfl))
  | nextBit _ _ _ eq | nextByte _ _ _ eq => exact .inl (eq ▸ .inl rfl)
  | last _ _ _ _ eq => exact .inr (congrArg State.st eq)

/-- R146: the snapshots stand for the whole frame. -/
theorem keeps_snap (h : SeqCase s s.beginCycle t) (inFrame : s.inFrame) : t.snapHi = s.snapHi ∧ t.snapLo = s.snapLo := by
  by_contra changed
  exact absurd inFrame (by simp [h.wait_of_snap_changed changed])

end SeqCase

/-- A phase or a gap that goes on. -/
theorem State.Inv.cyclesLeft_count {s t : State} (hs : s.Inv) (inFrame : s.inFrame) (cnt : s.cnt ≠ 0)
    (eq : t = { s with cnt := s.cnt - 1 }) : t.cyclesLeft + 1 = s.cyclesLeft := by
  have after : t.cyclesAfterBit = s.cyclesAfterBit := by rw [eq]; rfl
  have tst : t.st = s.st := by rw [eq]
  have tcnt : t.cnt = s.cnt - 1 := congrArg State.cnt eq
  rcases inFrame with st | st | st
  · have low : tl t.cfg t.curBit = tl s.cfg s.curBit := by rw [eq]; rfl
    rw [State.cyclesLeft_high (tst.trans st), State.cyclesLeft_high st, after, low]
    omega
  · rw [State.cyclesLeft_low (tst.trans st), State.cyclesLeft_low st, after]
    omega
  · obtain ⟨-, bit, more, -⟩ := hs.gapPhase st
    have rest := State.cyclesAfterBit_more bit more
    have cfg : t.cfg = s.cfg := by rw [eq]
    rw [State.cyclesLeft_gap (tst.trans st), State.cyclesLeft_gap st, after, cfg]
    omega

/-- Every cycle of a frame leaves one cycle less (R157). -/
theorem SeqCase.cyclesLeft_succ {s t : State} (h : SeqCase s s.beginCycle t) (hs : s.Inv) (inFrame : s.inFrame) :
    t.cyclesLeft + 1 = s.cyclesLeft := by
  have cfg : t.cfg = s.cfg := h.keeps_inputs_cfg.2
  have valid : t.cfg.Valid := cfg ▸ hs.params
  cases h with
  | stay st => rcases st with st | ⟨st, -⟩ <;> exact absurd inFrame (by simp [st])
  | waitEmpty st | waitLoad st | finish st => exact absurd inFrame (by simp [st])
  | count _ cnt eq => exact hs.beginCycle.cyclesLeft_count inFrame cnt eq
  | fall st cnt eq =>
    have pos := tl_pos hs.params s.curBit
    have after : t.cyclesAfterBit = s.cyclesAfterBit := by rw [eq]; rfl
    have tcnt : t.cnt = tl s.cfg s.curBit - 1 := congrArg State.cnt eq
    rw [State.cyclesLeft_low (congrArg State.st eq), State.cyclesLeft_high st, after]
    omega
  | nextBit st cnt bit eq =>
    obtain ⟨j, hj⟩ := Nat.exists_eq_succ_of_ne_zero (n := s.bitIdx.toNat) (by simpa [BitVec.toNat_eq] using bit)
    have hj' : (s.bitIdx - 1).toNat = j := by bv_omega
    have after : s.cyclesAfterBit = s.cfg.tbit + t.cyclesAfterBit := by
      rw [State.cyclesAfterBit, hj, Nat.succ_mul, ← hj', eq, Nat.add_right_comm, Nat.add_comm]
      rfl
    rw [State.cyclesLeft_startBit valid (congrArg State.st eq) (by rw [eq]; rfl), State.cyclesLeft_low st, cfg]
    omega
  | toGap st cnt bit more gap eq =>
    have rest := State.cyclesAfterBit_more bit more
    have after : t.cyclesAfterBit = s.cyclesAfterBit := by rw [eq]; rfl
    have tcnt : t.cnt = s.cfg.tByteGap - 1 := congrArg State.cnt eq
    rw [State.cyclesLeft_gap (congrArg State.st eq), State.cyclesLeft_low st, after, cfg]
    omega
  | nextByte st cnt byte eq =>
    obtain ⟨-, buf, more⟩ := State.hasByte_eq_true.mp byte
    have bit : s.bitIdx = 0 := st.elim (fun ⟨_, bit, _⟩ => bit) fun st => (hs.gapPhase st).2.1
    have rest := State.cyclesAfterBit_more bit more
    have after : t.cyclesAfterBit =
        7 * s.cfg.tbit + (s.nb - 1 - (s.byteIdx.toNat + 1)) * (8 * s.cfg.tbit + s.cfg.tByteGap) := by
      rw [← hs.toNat_ofNat_byteIdx buf more, eq]
      rfl
    have left : s.cyclesLeft = 1 + s.cyclesAfterBit - s.cfg.tByteGap := by
      rcases st with ⟨st, -, -, gap⟩ | st
      · rw [State.cyclesLeft_low st, cnt, gap, Nat.zero_add, Nat.sub_zero]
      · rw [State.cyclesLeft_gap st, cnt, Nat.zero_add]
    rw [State.cyclesLeft_startBit valid (congrArg State.st eq) (by rw [eq]; rfl), cfg, left]
    omega
  | last st cnt bit more eq =>
    have noByte : s.nb - 1 - s.byteIdx.toNat = 0 := by omega
    have after : s.cyclesAfterBit = 0 := by simp [State.cyclesAfterBit, bit, noByte]
    rw [State.cyclesLeft_done (congrArg State.st eq), State.cyclesLeft_low st, cnt, after]

/-! ### The last low phase -/

/-- The low phase of the strip's last bit. -/
def State.inLastLow (s : State) : Prop := s.st = .low ∧ s.bitIdx = 0 ∧ ¬s.byteIdx.toNat + 1 < s.nb

/-- The length of that phase in cycles (R140). -/
def State.lastLow (s : State) : Nat := tl s.cfg (s.bitstream (24 * s.numLeds.toNat - 1))

theorem SeqCase.keeps_lastLow {s t : State} (h : SeqCase s s.beginCycle t) : t.lastLow = s.lastLow := by
  simp only [State.lastLow, State.bitstream, h.keeps_inputs_cfg, h.sameStrip.buf, h.sameStrip.numLeds, State.beginCycle_cfg,
    State.beginCycle_buf, State.beginCycle_numLeds]

/-- The current bit of the last low phase is the last of the bitstream (R147). -/
theorem State.Inv.cyclesLeft_le_lastLow {s : State} (h : s.Inv) (last : s.inLastLow) : s.cyclesLeft ≤ s.lastLow := by
  obtain ⟨st, bit, more⟩ := last
  obtain ⟨lt, byte⟩ := h.frameByte (.inr (.inl st))
  have nb : s.nb = 3 * s.numLeds.toNat := rfl
  have noByte : s.nb - 1 - s.byteIdx.toNat = 0 := by omega
  have after : s.cyclesAfterBit = 0 := by simp [State.cyclesAfterBit, bit, noByte]
  have lastByte : (24 * s.numLeds.toNat - 1) / 8 = s.byteIdx.toNat := by omega
  have lastBit : 7 - (24 * s.numLeds.toNat - 1) % 8 = 0 := by omega
  have cur : s.bitstream (24 * s.numLeds.toNat - 1) = s.curBit := by
    rw [State.bitstream, lastByte, lastBit, State.curBit, byte, bit]
    rfl
  have cnt := (h.lowPhase st).1
  rw [State.cyclesLeft_low st, State.lastLow, cur, after]
  omega

/-- From the last low phase on the port holds the low snapshot. -/
def State.Settled (s : State) : Prop := s.inLastLow ∨ s.st = .done → s.port = s.snapLo

theorem State.extPort_of_quiet {s : State} (quiet : s.pins.extWrEn = false) : s.extPort = s.port := by
  simp [State.extPort, quiet]

/-- The port takes the low snapshot where the last low phase begins, and keeps it where no external write comes. -/
theorem SeqCase.settled {s t : State} (h : SeqCase s s.beginCycle t) (inFrame : s.inFrame) (settled : s.Settled)
    (quiet : s.inLastLow → s.pins.extWrEn = false) : t.Settled := by
  have kept (last : s.inLastLow) : s.extPort = s.snapLo :=
    (State.extPort_of_quiet (quiet last)).trans (settled (.inl last))
  cases h with
  | stay st => rcases st with st | ⟨st, -⟩ <;> exact absurd inFrame (by simp [st])
  | waitEmpty st | waitLoad st | finish st => exact absurd inFrame (by simp [st])
  | count st _ eq =>
    subst eq
    rintro (last | done)
    · exact kept last
    · exact absurd inFrame (by simp [show s.st = .done from done])
  | fall _ _ eq => subst eq; exact fun _ => rfl
  | nextBit _ _ _ eq | toGap _ _ _ _ _ eq | nextByte _ _ _ eq =>
    simp [State.Settled, State.inLastLow, eq]
  | last st _ bit more eq => subst eq; exact fun _ => kept ⟨st, bit, more⟩

/-! ### The frame -/

/-- From any cycle of a frame, and from DONE, the DONE cycle is `cyclesLeft` cycles ahead, with the low snapshot in the port. -/
theorem State.Inv.runFor_cyclesLeft {n : Nat} {s : State} (h : s.Inv) (st : s.inFrame ∨ s.st = .done) (left : s.cyclesLeft = n)
    (noReset : s.NoReset n) (settled : s.Settled) (quiet : ∀ k < n, n ≤ k + s.lastLow → (s.inputAt k).extWrEn = false) :
    ∃ u, runFor n s = .next u ∧ u.st = .done ∧ u.port = s.snapLo := by
  induction n using Nat.strongRecOn generalizing s with
  | ind n ih =>
  rcases st with inFrame | done
  · obtain ⟨t, seq, answers⟩ := h.seqCase_of_busy (State.busy_of_inFrame inFrame)
    obtain rfl : n = t.cyclesLeft + 1 := left.symm.trans (seq.cyclesLeft_succ h inFrame).symm
    have step : step s = .next t.nextInputs := answers (noReset 0 (Nat.succ_pos _))
    have quietNow (last : s.inLastLow) : s.pins.extWrEn = false :=
      quiet 0 (Nat.succ_pos _) (by rw [← left, Nat.zero_add]; exact h.cyclesLeft_le_lastLow last)
    rw [runFor_succ step, ← (seq.keeps_snap inFrame).2]
    refine ih t.cyclesLeft (Nat.lt_succ_self _) (h.of_step step) (seq.inFrame_or_done inFrame) rfl
      (seq.noReset_nextInputs noReset) (seq.settled inFrame settled quietNow) fun k hk hlast => ?_
    have late : t.cyclesLeft ≤ k + s.lastLow := seq.keeps_lastLow ▸ hlast
    rw [seq.inputAt_nextInputs]
    exact quiet (k + 1) (Nat.succ_lt_succ hk) (by omega)
  · have zero : n = 0 := left.symm.trans (State.cyclesLeft_done done)
    exact ⟨s, by rw [zero, runFor_zero], done, settled (.inr done)⟩

/-- R151: the WAIT cycle in which the latch test holds, with a strip that is not empty. -/
theorem State.Inv.sequencer_startFrame {s : State} (h : s.Inv) (wait : s.st = .wait) (ok : s.latchOk s.pins.nowUs = true)
    (leds : s.numLeds ≠ 0) (s' : State) :
    sequencer s s' =
      .next
        { s' with
          snapHi := s.lineHigh, snapLo := s.lineLow, curByte := s.buf.read 0, byteIdx := 0, bitIdx := 7,
          port := s.lineHigh, cnt := th s.cfg ((s.buf.read 0).getLsbD 7) - 1, st := .high } := by
  have nonempty := State.nb_ne_zero leds
  simp only [sequencer, wait, seqWait, ok, nonempty, if_true, if_false]
  exact load_of_hasByte _ _ (h.hasByte_of_busy (by simp [wait]) (Nat.pos_of_ne_zero nonempty))

/-- R157: a frame that begins has its whole crit window to go. -/
theorem State.cyclesLeft_startFrame {s : State} (hp : s.cfg.Valid) (leds : s.numLeds ≠ 0) (high : s.st = .high)
    (byte : s.byteIdx.toNat = 0) (bit : s.bitIdx.toNat = 7) (cnt : s.cnt = th s.cfg s.curBit - 1) : s.cyclesLeft = s.frameCycles := by
  obtain ⟨e, he⟩ := Nat.exists_eq_succ_of_ne_zero (State.nb_ne_zero leds)
  have bits : 24 * s.numLeds.toNat = 8 * (e + 1) := by rw [← Nat.succ_eq_add_one, ← he, State.nb]; omega
  rw [State.cyclesLeft_startBit hp high cnt, State.cyclesAfterBit, State.frameCycles, bits, ← State.nb, he, byte, bit, Nat.succ_sub_one,
    Nat.sub_zero]
  ring

/-- Settles O54: the frame runs its `frameCycles`, and the external writes that `quiet` allows come before its last low phase. -/
theorem externalWritesBeforeTheLastLowPhaseAreLost : Obligations.ExternalWritesBeforeTheLastLowPhaseAreLost := by
  intro s h wait ok leds noReset lastLow quiet
  have hu := h.sequencer_startFrame wait ok leds s.beginCycle
  have seq := sequencer_cases hu
  have step := (step_of_busy (noReset 0 (Nat.succ_pos _)) (by simp [wait])).trans (by rw [hu, mapNext_next])
  rw [runFor_succ step]
  refine (h.of_step step).runFor_cyclesLeft (.inl (.inl rfl)) ?_ (seq.noReset_nextInputs noReset) ?_
    fun k hk hlast => ?_
  · exact State.cyclesLeft_startFrame h.params leds rfl rfl rfl rfl
  · simp [State.Settled, State.inLastLow]
  · have late : s.frameCycles ≤ k + lastLow := hlast
    rw [seq.inputAt_nextInputs]
    exact quiet (k + 1) hk (by omega)

end Sys2Proof.Machine
end

section
/-! PROOFS. The encoding both ways, the bits a command ignores, and the assembler (O1 to O6), and the reserved opcodes (O25). A word is its
four fields `OP`, `RSV`, `IDX` and `DATA` (R80), so each claim about words is one about fields, for each of the sixteen opcodes. -/

namespace Sys2Proof

open Machine

/-! ### The fields of a word (R80) -/

/-- `RSV`, bits 59:48. -/
def fieldRsv (w : CmdWord) : BitVec 12 := w.extractLsb' 48 12

theorem fieldOp_toNat (w : CmdWord) : (fieldOp w).toNat = w.toNat / 2 ^ 60 := by
  have lt := w.isLt
  rw [fieldOp, BitVec.extractLsb'_toNat, Nat.shiftRight_eq_div_pow]
  omega

theorem fieldOp_eq_ofNat (w : CmdWord) : ∃ n < 16, fieldOp w = BitVec.ofNat 4 n :=
  ⟨_, (fieldOp w).isLt, by simp⟩

@[simp] theorem fieldRsv_cmdWord (op : BitVec 4) (i : Idx) (d : Packed) : fieldRsv (cmdWord op i d) = 0 := by
  ext k hk
  rw [fieldRsv, BitVec.getElem_extractLsb', getLsbD_cmdWord, if_neg (by omega), if_neg (by omega), if_pos (by omega)]
  simp

@[simp] theorem fieldR_cmdWord_dataRgb (op : BitVec 4) (i : Idx) (r g b : Byte) : fieldR (cmdWord op i (dataRgb r g b)) = r := by
  rw [fieldR_eq, fieldData_cmdWord, dataRgb_r]

@[simp] theorem fieldG_cmdWord_dataRgb (op : BitVec 4) (i : Idx) (r g b : Byte) : fieldG (cmdWord op i (dataRgb r g b)) = g := by
  rw [fieldG_eq, fieldData_cmdWord, dataRgb_g]

@[simp] theorem fieldB_cmdWord_dataRgb (op : BitVec 4) (i : Idx) (r g b : Byte) : fieldB (cmdWord op i (dataRgb r g b)) = b := by
  rw [fieldB_eq, fieldData_cmdWord, dataRgb_b]

/-! ### Decoding what was encoded (R82, R83, R88, R90) -/

/-- Settles O2: every field of the built word is the one it was built from, so the opcode selects the command's own row and the row's
fields are its operands. -/
theorem decodeEncodeRoundTrip : Obligations.DecodeEncodeRoundTrip := by
  intro i
  cases i <;>
    simp only [encode, decode, BitVec.reduceToNat, fieldOp_cmdWord, fieldIdx_cmdWord, fieldData_cmdWord, fieldR_cmdWord_dataRgb,
      fieldG_cmdWord_dataRgb, fieldB_cmdWord_dataRgb]

/-- Settles O1: the ten words by evaluation of `encode`, their commands by the round trip. -/
theorem encodingExamplesDecode : Obligations.EncodingExamplesDecode := by
  intro p hp
  have word : encode p.1 = p.2 := by
    revert p
    decide
  exact ⟨by rw [← word, decodeEncodeRoundTrip], word⟩

/-! ### The bits a command ignores (R86) -/

theorem extractLsb'_xor_and {m : CmdWord} {lo n : Nat} (h : m.extractLsb' lo n = 0) (w x : CmdWord) :
    (w ^^^ (x &&& m)).extractLsb' lo n = w.extractLsb' lo n := by
  rw [BitVec.extractLsb'_xor, BitVec.extractLsb'_and, h]
  exact (congrArg _ BitVec.and_zero).trans BitVec.xor_zero

section
variable {m : CmdWord} (w x : CmdWord)

theorem fieldOp_xor_and (h : fieldOp m = 0) : fieldOp (w ^^^ (x &&& m)) = fieldOp w := extractLsb'_xor_and h w x

theorem fieldIdx_xor_and (h : fieldIdx m = 0) : fieldIdx (w ^^^ (x &&& m)) = fieldIdx w := extractLsb'_xor_and h w x

theorem fieldR_xor_and (h : fieldR m = 0) : fieldR (w ^^^ (x &&& m)) = fieldR w := extractLsb'_xor_and h w x

theorem fieldG_xor_and (h : fieldG m = 0) : fieldG (w ^^^ (x &&& m)) = fieldG w := extractLsb'_xor_and h w x

theorem fieldB_xor_and (h : fieldB m = 0) : fieldB (w ^^^ (x &&& m)) = fieldB w := extractLsb'_xor_and h w x

end

/-- R105: of its operand `packed`, SETPIX_PACKED reads the three colour fields alone. -/
theorem exec_setpixPacked_fieldData (idx : Idx) (w : CmdWord) (s : State) :
    exec (.setpixPacked idx (fieldData w)) s = exec (.setpixRgb idx (fieldR w) (fieldG w) (fieldB w)) s := by
  rw [fieldR_eq, fieldG_eq, fieldB_eq]
  rfl

/-- Settles O3: no ignored bit lies in `OP` or in a field the opcode's command reads. -/
theorem ignoredBitsNeverChangeTheResult : Obligations.IgnoredBitsNeverChangeTheResult := by
  intro w x s
  have op_eq : (w >>> 60).toNat = (fieldOp w).toNat := by
    rw [fieldOp_toNat, BitVec.toNat_ushiftRight, Nat.shiftRight_eq_div_pow]
  obtain ⟨n, lt, op⟩ := fieldOp_eq_ofNat w
  rw [op_eq, op]
  interval_cases n <;>
    simp (disch := decide) only [decode, op, BitVec.reduceToNat, fieldOp_xor_and, fieldIdx_xor_and, fieldR_xor_and,
      fieldG_xor_and, fieldB_xor_and, exec_setpixPacked_fieldData]

/-! ### Encoding what a word decodes to (R83, R84, R88) -/

/-- `OP`, `RSV`, `IDX` and `DATA` are the whole word. -/
theorem CmdWord.ext_fields {v w : CmdWord} (op : fieldOp v = fieldOp w) (rsv : fieldRsv v = fieldRsv w)
    (idx : fieldIdx v = fieldIdx w) (data : fieldData v = fieldData w) : v = w := by
  simp only [fieldOp, fieldRsv, fieldIdx, fieldData, ← BitVec.toNat_inj, BitVec.extractLsb'_toNat, Nat.shiftRight_eq_div_pow] at *
  omega

/-- Masking a word, field by field, where the mask keeps `OP` and clears `RSV`. -/
theorem and_eq_cmdWord {c : CmdWord} (op : fieldOp c = BitVec.allOnes 4) (rsv : fieldRsv c = 0) (w : CmdWord) :
    w &&& c = cmdWord (fieldOp w) (fieldIdx w &&& fieldIdx c) (fieldData w &&& fieldData c) := by
  apply CmdWord.ext_fields
  · rw [fieldOp_cmdWord, ← BitVec.and_allOnes (x := fieldOp w), ← op]
    exact BitVec.extractLsb'_and
  · rw [fieldRsv_cmdWord]
    exact BitVec.extractLsb'_and.trans ((congrArg _ rsv).trans BitVec.and_zero)
  · rw [fieldIdx_cmdWord]
    exact BitVec.extractLsb'_and
  · rw [fieldData_cmdWord]
    exact BitVec.extractLsb'_and

theorem fieldData_and_rgb (w : CmdWord) : fieldData w &&& 0xFFFFFF#32 = dataRgb (fieldR w) (fieldG w) (fieldB w) := by
  have mask : (0xFFFFFF#32).toNat = 2 ^ 24 - 1 := rfl
  apply BitVec.eq_of_toNat_eq
  rw [dataRgb_toNat, BitVec.toNat_and, mask, Nat.and_two_pow_sub_one_eq_mod]
  simp only [fieldData, fieldR, fieldG, fieldB, BitVec.extractLsb'_toNat, Nat.shiftRight_eq_div_pow]
  omega

theorem fieldData_and_b (w : CmdWord) : fieldData w &&& 0xFF#32 = dataRgb 0 0 (fieldB w) := by
  have mask : (0xFF#32).toNat = 2 ^ 8 - 1 := rfl
  apply BitVec.eq_of_toNat_eq
  rw [dataRgb_toNat, BitVec.toNat_and, mask, Nat.and_two_pow_sub_one_eq_mod]
  simp [fieldData, fieldB]

theorem fieldIdx_ofNat (n : Nat) : fieldIdx (BitVec.ofNat 64 n) = BitVec.ofNat 16 (n / 2 ^ 32) := by
  apply BitVec.eq_of_toNat_eq
  simp only [fieldIdx, BitVec.extractLsb'_toNat, Nat.shiftRight_eq_div_pow, BitVec.toNat_ofNat]
  omega

theorem fieldData_ofNat (n : Nat) : fieldData (BitVec.ofNat 64 n) = BitVec.ofNat 32 n := by
  apply BitVec.eq_of_toNat_eq
  simp only [fieldData, BitVec.extractLsb'_toNat, Nat.shiftRight_eq_div_pow, BitVec.toNat_ofNat]
  omega

/-- Settles O4: in each opcode's row the mask keeps or clears `IDX` whole, and keeps of `DATA` all, the colour, the low byte or
nothing, which is what `encode` builds from the fields `decode` reads. -/
theorem encodeDecodeClearsIgnoredBits : Obligations.EncodeDecodeClearsIgnoredBits := by
  intro w
  have allIdx : fieldIdx w &&& 0xFFFF#16 = fieldIdx w := BitVec.and_allOnes
  have allData : fieldData w &&& 0xFFFFFFFF#32 = fieldData w := BitVec.and_allOnes
  obtain ⟨n, lt, op⟩ := fieldOp_eq_ofNat w
  interval_cases n <;>
    simp (disch := decide) [decode, op, encode, ignoredMask, and_eq_cmdWord, fieldIdx_ofNat, fieldData_ofNat, allIdx, allData,
      fieldData_and_rgb, fieldData_and_b]

/-! ### Reserved opcodes (R85) -/

/-- Settles O25: six opcodes are left, and each reserved command is `raise .illegal`. -/
theorem reservedOpcodesAnswerIllegal : Obligations.ReservedOpcodesAnswerIllegal := by
  refine ⟨fun w reserved => ?_, fun i hi s => ?_⟩
  · rw [← fieldOp_toNat] at reserved
    have lt := (fieldOp w).isLt
    interval_cases op : (fieldOp w).toNat <;> simp [decode, op] at reserved ⊢
  · simp only [List.mem_cons, List.not_mem_nil, or_false] at hi
    rcases hi with rfl | rfl | rfl | rfl | rfl | rfl <;> rfl

/-! ### Assembling a line (R88, R89) -/

theorem assemble_of_wellFormed {l : SourceLine} (fit : l.wellFormed = true) : assemble l = some (l.expand.map encode) := if_pos fit

theorem assemble_of_not_wellFormed {l : SourceLine} (wide : ¬l.wellFormed = true) : assemble l = none := if_neg wide

theorem assemble_eq_ite {l : SourceLine} {P : Prop} [Decidable P] {ws : List CmdWord} (fit : l.wellFormed = true ↔ P)
    (words : P → l.expand.map encode = ws) : assemble l = if P then some ws else none := by
  by_cases h : P
  · rw [assemble_of_wellFormed (fit.mpr h), if_pos h, words h]
  · rw [assemble_of_not_wellFormed (fit.not.mpr h), if_neg h]

theorem assemble_congr {l m : SourceLine} (fit : l.wellFormed = m.wellFormed) (commands : l.expand = m.expand) :
    assemble l = assemble m := by
  rw [assemble, assemble, fit, commands]

theorem assemble_eq_none_iff (l : SourceLine) : assemble l = none ↔ l.wellFormed = false := by
  simp [assemble]

theorem decode_assemble {l : SourceLine} {ws : List CmdWord} (h : assemble l = some ws) : ws.map decode = l.expand := by
  obtain ⟨-, rfl⟩ : l.wellFormed = true ∧ l.expand.map encode = ws := by simpa [assemble] using h
  have roundTrip : decode ∘ encode = id := funext decodeEncodeRoundTrip
  rw [List.map_map, roundTrip, List.map_id]

theorem fits_iff {w v : Nat} : fits w v = true ↔ v < 2 ^ w := decide_eq_true_iff

theorem assemble_construct (n p : Nat) : assemble (.construct n p) =
    if n < 65536 ∧ p < 256 then some [BitVec.ofNat 64 (0x1 * 2 ^ 60 + n * 2 ^ 32 + p)] else none :=
  assemble_eq_ite (by simp [SourceLine.wellFormed, fits_iff]) fun ⟨hn, hp⟩ => by
    simp [SourceLine.expand, encode, cmdWord_ofNat _ _ hn, dataRgb_toNat, Nat.mod_eq_of_lt hp]

theorem assemble_setpixRgb (i r g b : Nat) : assemble (.setpixRgb i r g b) =
    if i < 65536 ∧ r < 256 ∧ g < 256 ∧ b < 256 then
      some [BitVec.ofNat 64 (0x5 * 2 ^ 60 + i * 2 ^ 32 + r * 2 ^ 16 + g * 2 ^ 8 + b)]
    else none :=
  assemble_eq_ite (by simp [SourceLine.wellFormed, fits_iff, and_assoc]) fun ⟨hi, hr, hg, hb⟩ => by
    simp [SourceLine.expand, encode, cmdWord_ofNat _ _ hi, dataRgb_ofNat hr hg hb, Nat.add_assoc]

theorem assemble_setpixPacked (i p : Nat) : assemble (.setpixPacked i p) =
    if i < 65536 ∧ p < 4294967296 then some [BitVec.ofNat 64 (0x6 * 2 ^ 60 + i * 2 ^ 32 + p)] else none :=
  assemble_eq_ite (by simp [SourceLine.wellFormed, fits_iff]) fun ⟨hi, hp⟩ => by
    simp [SourceLine.expand, encode, cmdWord_ofNat _ _ hi, Nat.mod_eq_of_lt hp]

theorem assemble_getpix (i : Nat) : assemble (.getpix i) =
    if i < 65536 then some [BitVec.ofNat 64 (0x7 * 2 ^ 60 + i * 2 ^ 32)] else none :=
  assemble_eq_ite (by simp [SourceLine.wellFormed, fits_iff]) fun hi => by
    simp [SourceLine.expand, encode, cmdWord_ofNat _ _ hi]

theorem assemble_setbright (l : Nat) : assemble (.setbright l) =
    if l < 256 then some [BitVec.ofNat 64 (0x8 * 2 ^ 60 + l)] else none :=
  assemble_eq_ite (by simp [SourceLine.wellFormed, fits_iff]) fun hl => by
    have word := cmdWord_ofNat 0x8 (dataRgb 0 0 (.ofNat 8 l)) (Nat.two_pow_pos 16)
    simpa [SourceLine.expand, encode, dataRgb_toNat, Nat.mod_eq_of_lt hl] using word

theorem assemble_color (r g b : Nat) : assemble (.color r g b) =
    if r < 256 ∧ g < 256 ∧ b < 256 then some [BitVec.ofNat 64 (0xA * 2 ^ 60 + r * 2 ^ 16 + g * 2 ^ 8 + b)] else none :=
  assemble_eq_ite (by simp [SourceLine.wellFormed, fits_iff, and_assoc]) fun ⟨hr, hg, hb⟩ => by
    have word := cmdWord_ofNat 0xA (dataRgb (.ofNat 8 r) (.ofNat 8 g) (.ofNat 8 b)) (Nat.two_pow_pos 16)
    simpa [SourceLine.expand, encode, dataRgb_ofNat hr hg hb, Nat.add_assoc] using word

/-- Log 14: SETPIX refuses a colour that SETPIX_PACKED, with its 32 bits, does not. -/
theorem assemble_setpix (i c : Nat) : assemble (.setpix i c) =
    if i < 65536 ∧ c < 16777216 then some [BitVec.ofNat 64 (0x6 * 2 ^ 60 + i * 2 ^ 32 + c)] else none :=
  assemble_eq_ite (by simp [SourceLine.wellFormed, fits_iff]) fun ⟨hi, hc⟩ => by
    have word : c < 4294967296 := by omega
    simp [SourceLine.expand, encode, cmdWord_ofNat _ _ hi, Nat.mod_eq_of_lt word]

/-- Settles O6: a pseudo-instruction checks the operands its expansion checks, and stands for the same commands. -/
theorem pseudoInstructionsExpand : Obligations.PseudoInstructionsExpand := by
  refine ⟨fun idx => assemble_congr ?_ rfl, rfl, fun idx rgb hrgb => assemble_congr ?_ rfl, fun n pinid => ?_⟩
  · simp [SourceLine.wellFormed, fits]
  · have wide : rgb < 2 ^ 32 := by omega
    simp [SourceLine.wellFormed, fits_iff.mpr hrgb, fits_iff.mpr wide]
  · by_cases fit : (SourceLine.construct n pinid).wellFormed = true
    · rw [assemble_of_wellFormed (l := .init n pinid) fit, assemble_of_wellFormed fit]
      rfl
    · rw [assemble_of_not_wellFormed (l := .init n pinid) fit, assemble_of_not_wellFormed fit]

/-- Settles O5: a lemma for each form that has operands, the expansions of O6, and the round trip for what the words decode to. -/
theorem assemblerRefusesWideOperands : Obligations.AssemblerRefusesWideOperands := by
  obtain ⟨clearpix, -, -, init⟩ := pseudoInstructionsExpand
  refine ⟨assemble_construct, rfl, rfl, rfl, assemble_setpixRgb, assemble_setpixPacked, assemble_getpix, assemble_setbright, rfl,
    assemble_color, fun i => ?_, rfl, assemble_setpix, fun n p => ?_, fun l => (assemble_eq_none_iff l).symm,
    fun _ _ => decode_assemble⟩
  · rw [clearpix, assemble_setpixRgb]
    simp
  · rw [init, assemble_construct]
    by_cases fit : n < 65536 ∧ p < 256
    · rw [if_pos fit, if_pos fit]
      rfl
    · rw [if_neg fit, if_neg fit]

end Sys2Proof
end

section
/-! PROOFS. The pixel buffer commands (O19 to O24, O28 to O31) and the arithmetic of brightness (O32). What a pixel write stored is said
once, as the byte at every address after it (`State.withPixel_read`); what SETPIX and GETPIX answer is one equation for each case of
`in_range`. -/

namespace Sys2Proof.Machine

/-! ### The brightness scaling in numbers (R101, R110) -/

theorem scale_zero (c : Byte) : scale c 0 = c := if_pos rfl

theorem scale_toNat_of_ne_zero (c : Byte) {f : Byte} (hf : f ≠ 0) : (scale c f).toNat = c.toNat * f.toNat / 256 := by
  have product : c.toNat * f.toNat < 2 ^ 16 := (Nat.mul_lt_mul'' c.isLt f.isLt).trans_eq rfl
  rw [scale, if_neg hf, BitVec.toNat_setWidth, BitVec.toNat_ushiftRight, BitVec.toNat_mul,
    BitVec.toNat_setWidth_of_le (by omega), BitVec.toNat_setWidth_of_le (by omega), Nat.mod_eq_of_lt product,
    Nat.shiftRight_eq_div_pow]
  omega

theorem scale_toNat (c f : Byte) : (scale c f).toNat = if f = 0 then c.toNat else c.toNat * f.toNat / 256 := by
  split
  · next hf => rw [hf, scale_zero]
  · next hf => exact scale_toNat_of_ne_zero c hf

theorem scale_toNat_le (c f : Byte) : (scale c f).toNat ≤ c.toNat := by
  have hf := f.isLt
  rw [scale_toNat]
  split
  · exact le_rfl
  · exact Nat.div_le_of_le_mul (by rw [Nat.mul_comm]; exact Nat.mul_le_mul_right _ hf.le)

/-- A factor other than 0 makes every channel but 0 strictly darker. -/
theorem scale_toNat_lt {c f : Byte} (hf : f ≠ 0) (hc : c ≠ 0) : (scale c f).toNat < c.toNat := by
  have pos : 0 < c.toNat := Nat.pos_of_ne_zero fun black => hc (BitVec.eq_of_toNat_eq black)
  rw [scale_toNat_of_ne_zero c hf, Nat.div_lt_iff_lt_mul (by decide)]
  exact Nat.mul_lt_mul_of_pos_left f.isLt pos

theorem zero_scale (f : Byte) : scale 0 f = 0 :=
  BitVec.eq_of_toNat_eq (Nat.le_zero.mp (scale_toNat_le 0 f))

/-- Settles O32: each law is one about the quotient `c * f / 256`. -/
theorem scaleLaws : Obligations.ScaleLaws := by
  intro c f hf
  have hc := c.isLt
  have one : (scale c 1).toNat = c.toNat * 1 / 256 := scale_toNat_of_ne_zero c (by decide)
  have half : (scale c 128).toNat = c.toNat * 128 / 256 := scale_toNat_of_ne_zero c (by decide)
  have top : (scale c 255).toNat = c.toNat * 255 / 256 := scale_toNat_of_ne_zero c (by decide)
  refine ⟨zero_scale f, scale_toNat_le c f, ⟨fun fixed => ?_, fun black => black ▸ zero_scale f⟩, BitVec.eq_of_toNat_eq ?_,
    by omega, by decide, by omega, fun d hcd => ?_, fun g hfg => ?_⟩
  · by_contra lit
    exact (scale_toNat_lt hf lit).ne (congrArg BitVec.toNat fixed)
  · exact one.trans (Nat.div_eq_of_lt (by omega))
  · rw [scale_toNat_of_ne_zero c hf, scale_toNat_of_ne_zero d hf]
    exact Nat.div_le_div_right (Nat.mul_le_mul_right _ hcd)
  · have hg : g ≠ 0 := by
      rintro rfl
      exact hf (BitVec.eq_of_toNat_eq (Nat.le_zero.mp hfg))
    rw [scale_toNat_of_ne_zero c hf, scale_toNat_of_ne_zero c hg]
    exact Nat.div_le_div_right (Nat.mul_le_mul_left _ hfg)

/-! ### Packed colours (R102) -/

theorem unpackR_eq_ofNat (p : Packed) : unpackR p = BitVec.ofNat 8 (p.toNat / 65536) := by
  rw [unpackR, BitVec.extractLsb', Nat.shiftRight_eq_div_pow]

theorem unpackG_eq_ofNat (p : Packed) : unpackG p = BitVec.ofNat 8 (p.toNat / 256) := by
  rw [unpackG, BitVec.extractLsb', Nat.shiftRight_eq_div_pow]

theorem unpackB_eq_ofNat (p : Packed) : unpackB p = BitVec.ofNat 8 p.toNat := rfl

theorem pack_unpack (p : Packed) : pack (unpackR p) (unpackG p) (unpackB p) = p &&& 0x00FFFFFF := by
  apply BitVec.eq_of_toNat_eq
  have mask : (0x00FFFFFF : Packed).toNat = 2 ^ 24 - 1 := rfl
  rw [pack_toNat, unpackR_eq_ofNat, unpackG_eq_ofNat, unpackB_eq_ofNat, BitVec.toNat_and, mask, Nat.and_two_pow_sub_one_eq_mod]
  simp only [BitVec.toNat_ofNat]
  omega

/-- Bits 31:24 are read by none of the three channels. -/
theorem extractLsb'_withTop (p : Packed) (top : Byte) {lo : Nat} (hlo : lo + 8 ≤ 24) :
    ((p &&& 0x00FFFFFF#32) ||| (top.setWidth 32 <<< 24)).extractLsb' lo 8 = p.extractLsb' lo 8 := by
  have mask : 0x00FFFFFF#32 = (BitVec.allOnes 24).setWidth 32 := by decide
  rw [mask]
  ext k hk
  have low : lo + k < 24 := by omega
  have fits : lo + k < 32 := by omega
  simp [low, fits, -BitVec.reduceAllOnes, -BitVec.reduceSetWidth]

theorem execSetpixPacked_congr (idx : Idx) {p q : Packed} (low : ∀ lo, lo + 8 ≤ 24 → q.extractLsb' lo 8 = p.extractLsb' lo 8)
    (s : State) : execSetpixPacked idx q s = execSetpixPacked idx p s := by
  have red : unpackR q = unpackR p := low 16 (by decide)
  have green : unpackG q = unpackG p := low 8 (by decide)
  have blue : unpackB q = unpackB p := low 0 (by decide)
  rw [execSetpixPacked, execSetpixPacked, red, green, blue]

/-! ### The buffer after a pixel write (R61, R104) -/

theorem pixelAddr_inj {idx : Idx} {j k : Nat} : pixelAddr idx j = pixelAddr idx k ↔ j = k := Nat.add_left_cancel_iff

namespace State
variable {s : State} (wf : Memory.wf s.buf = true) (idx : Idx) (r g b : Byte)
include wf

theorem withPixel_wf : Memory.wf (s.withPixel idx r g b).buf = true :=
  Memory.wf_write _ _ (Memory.wf_write _ _ (Memory.wf_write _ _ wf))

theorem withPixel_read (a : Nat) :
    (s.withPixel idx r g b).buf.read a =
      if pixelAddr idx 2 = a then scale g s.bright
      else if pixelAddr idx 1 = a then scale b s.bright
      else if pixelAddr idx 0 = a then scale r s.bright
      else s.buf.read a := by
  have red := Memory.wf_write (pixelAddr idx 0) (scale r s.bright) wf
  rw [withPixel, Memory.read_write _ _ _ (Memory.wf_write _ _ red), Memory.read_write _ _ _ red, Memory.read_write _ _ _ wf]

theorem withPixel_read_red : (s.withPixel idx r g b).buf.read (pixelAddr idx 0) = scale r s.bright := by
  simp [withPixel_read wf, pixelAddr_inj]

theorem withPixel_read_blue : (s.withPixel idx r g b).buf.read (pixelAddr idx 1) = scale b s.bright := by
  simp [withPixel_read wf, pixelAddr_inj]

theorem withPixel_read_green : (s.withPixel idx r g b).buf.read (pixelAddr idx 2) = scale g s.bright := by
  rw [withPixel_read wf, if_pos rfl]

theorem withPixel_read_other {a : Nat} (out : ¬(3 * idx.toNat ≤ a ∧ a < 3 * idx.toNat + 3)) :
    (s.withPixel idx r g b).buf.read a = s.buf.read a := by
  have other {k : Nat} (hk : k < 3) : pixelAddr idx k ≠ a := by
    unfold pixelAddr
    omega
  rw [withPixel_read wf, if_neg (other (by decide)), if_neg (other (by decide)), if_neg (other (by decide))]

end State

/-! ### What the commands answer, case by case (R104, R106, R112, R116) -/

section
variable {s : State} {idx : Idx}

theorem State.not_inRange (out : ¬(s.bufOk = true ∧ idx.toNat < s.numLeds.toNat)) : ¬s.inRange idx = true := fun range =>
  out (State.inRange_eq_true.mp range).2

theorem setPixel_of_dead (r g b : Byte) (dead : s.alive = false) : setPixel idx r g b s = .next (s.respond .noStrip 0) :=
  needStrip_dead _ dead

theorem setPixel_of_out (r g b : Byte) (alive : s.alive = true) (out : ¬s.inRange idx = true) :
    setPixel idx r g b s = .next (s.respond .ok 0) := by
  rw [setPixel_eq, if_pos alive, if_neg out]

theorem setPixel_of_inRange (r g b : Byte) (range : s.inRange idx = true) :
    setPixel idx r g b s = .next ((s.withPixel idx r g b).respond .ok 0) := by
  rw [setPixel_eq, if_pos (State.inRange_eq_true.mp range).1, if_pos range]

theorem execGetpix_of_dead (dead : s.alive = false) : execGetpix idx s = .next (s.respond .noStrip 0) :=
  needStrip_dead _ dead

theorem execGetpix_of_out (alive : s.alive = true) (out : ¬s.inRange idx = true) :
    execGetpix idx s = .next (s.respond .ok 0) := by
  rw [execGetpix_eq, if_pos alive, if_neg out]

theorem execGetpix_of_inRange (range : s.inRange idx = true) :
    execGetpix idx s =
      .next (s.respond .ok
        (pack (s.buf.read (pixelAddr idx 0)) (s.buf.read (pixelAddr idx 2)) (s.buf.read (pixelAddr idx 1)))) := by
  rw [execGetpix_eq, if_pos (State.inRange_eq_true.mp range).1, if_pos range]

theorem execSetbright_of_dead (level : Byte) (dead : s.alive = false) : execSetbright level s = .next (s.respond .noStrip 0) :=
  needStrip_dead _ dead

theorem execSetbright_of_alive (level : Byte) (alive : s.alive = true) :
    execSetbright level s = .next (({ s with bright := storedFactor level } : State).respond .ok 0) :=
  needStrip_alive _ alive

theorem execNumpix_of_dead (dead : s.alive = false) : execNumpix s = .next (s.respond .noStrip 0) :=
  needStrip_dead _ dead

theorem execNumpix_of_alive (alive : s.alive = true) : execNumpix s = .next (s.respond .ok (s.numLeds.setWidth 32)) :=
  needStrip_alive _ alive

/-- GETPIX of the LED just set answers the scaled colour. -/
theorem getpix_after_setPixel (r g b : Byte) (wf : Memory.wf s.buf = true) (range : s.inRange idx = true) :
    ∃ t u, setPixel idx r g b s = .next t ∧ execGetpix idx t = .next u ∧ u.rspValid = true ∧ u.rspCode = .ok ∧
      u.rspData = pack (scale r s.bright) (scale g s.bright) (scale b s.bright) := by
  have kept : ((s.withPixel idx r g b).respond .ok 0).inRange idx = true := range
  refine ⟨_, _, setPixel_of_inRange r g b range, execGetpix_of_inRange kept, rfl, rfl, ?_⟩
  simp only [State.respond_rspData, State.respond_buf, State.withPixel_read_red wf, State.withPixel_read_green wf,
    State.withPixel_read_blue wf]

/-- GETPIX reads the buffer, `alive` and what bounds the index, and nothing else. -/
theorem execGetpix_congr {t : State} (alive : t.alive = s.alive) (range : t.inRange idx = s.inRange idx) (buf : t.buf = s.buf) :
    ∃ c d, execGetpix idx s = .next (s.respond c d) ∧ execGetpix idx t = .next (t.respond c d) := by
  rw [execGetpix_eq, execGetpix_eq, alive, range, buf]
  split_ifs <;> exact ⟨_, _, rfl, rfl⟩

end

/-- Settles O19, by what `State.withPixel` holds at each address. -/
theorem setpixRgbStoresScaledTriplet : Obligations.SetpixRgbStoresScaledTriplet := by
  intro s idx r g b wf
  refine ⟨setPixel_of_dead r g b, fun alive out => setPixel_of_out r g b alive (State.not_inRange out), fun alive buf lt => ?_⟩
  have range : s.inRange idx = true := State.inRange_eq_true.mpr ⟨alive, buf, lt⟩
  have stored {k : Nat} {v : Byte} (hk : k < 3) (byte : (s.withPixel idx r g b).buf.read (pixelAddr idx k) = v) :
      ((s.withPixel idx r g b).respond .ok 0).memRead (pixelAddr idx k) = some v :=
    byte ▸ State.memRead_of_hasByte (State.hasByte_pixelAddr (s := (s.withPixel idx r g b).respond .ok 0) range hk)
  exact ⟨_, _, _, _, setPixel_of_inRange r g b range, rfl, scale_toNat r s.bright, scale_toNat b s.bright,
    scale_toNat g s.bright, stored (by decide) (State.withPixel_read_red wf idx r g b),
    stored (by decide) (State.withPixel_read_blue wf idx r g b), stored (by decide) (State.withPixel_read_green wf idx r g b),
    fun _ => State.withPixel_read_other wf idx r g b, State.withPixel_wf wf idx r g b⟩

/-- Settles O20: both commands are `setPixel`, and the three channels of the packed colour are the same numbers. -/
theorem setpixPackedForwardsUnpacked : Obligations.SetpixPackedForwardsUnpacked := by
  intro s idx packed
  obtain ⟨t, ht⟩ : ∃ t, exec (.setpixPacked idx packed) s = .next t := ⟨_, setPixel_eq idx _ _ _ s⟩
  refine ⟨t, ht, ?_, fun top => (execSetpixPacked_congr idx (fun _ => extractLsb'_withTop packed top) s).trans ht⟩
  rw [← unpackR_eq_ofNat, ← unpackG_eq_ofNat, ← unpackB_eq_ofNat]
  exact ht

/-- Settles O21: the bytes stand in wire order, so blue is the second and green the third. -/
theorem getpixReturnsStoredColour : Obligations.GetpixReturnsStoredColour := by
  intro s idx
  refine ⟨execGetpix_of_dead, fun alive out => execGetpix_of_out alive (State.not_inRange out), fun alive buf lt => ?_⟩
  have range : s.inRange idx = true := State.inRange_eq_true.mpr ⟨alive, buf, lt⟩
  have byte {k : Nat} (hk : k < 3) : s.memRead (pixelAddr idx k) = some (s.buf.read (pixelAddr idx k)) :=
    State.memRead_of_hasByte (State.hasByte_pixelAddr range hk)
  exact ⟨_, _, _, _, byte (k := 0) (by decide), byte (k := 1) (by decide), byte (k := 2) (by decide), pack_toNat _ _ _,
    execGetpix_of_inRange range⟩

/-- Settles O22: the stored factor in numbers is the sum of 8-bit words. -/
theorem setbrightStoresLevelPlusOne : Obligations.SetbrightStoresLevelPlusOne := fun _ level =>
  ⟨execSetbright_of_dead level, fun alive => ⟨storedFactor level, BitVec.toNat_add level 1, execSetbright_of_alive level alive⟩⟩

/-- Settles O23: a 16-bit count keeps its value in the 32-bit response. -/
theorem numpixReturnsCount : Obligations.NumpixReturnsCount := fun s =>
  ⟨execNumpix_of_dead, fun alive => ⟨s.numLeds.setWidth 32, BitVec.toNat_setWidth_of_le (by decide), execNumpix_of_alive alive⟩⟩

/-- Settles O24, by `pack_toNat`. -/
theorem colorPacksChannels : Obligations.ColorPacksChannels := fun _ r g b => ⟨pack r g b, pack_toNat r g b, rfl⟩

/-- Settles O28: an index beyond the last LED is out of range, with or without a buffer. -/
theorem outOfRangePixelIsSilent : Obligations.OutOfRangePixelIsSilent := by
  intro s idx alive beyond
  have out : ¬s.inRange idx = true := State.not_inRange fun ⟨_, lt⟩ => Nat.not_lt.mpr beyond lt
  exact ⟨⟨_, execGetpix_of_out alive out, rfl, rfl, rfl⟩, fun r g b => ⟨_, setPixel_of_out r g b alive out, rfl, fun _ => rfl⟩,
    fun _ => ⟨_, setPixel_of_out _ _ _ alive out, rfl, fun _ => rfl⟩⟩

/-- Settles O29: at factor 0 the stored channels are the unpacked ones, and packing those clears bits 31:24. -/
theorem pixelRoundTrip : Obligations.PixelRoundTrip := by
  intro s idx c wf alive buf lt unscaled
  obtain ⟨t, u, set, get, valid, ok, data⟩ := getpix_after_setPixel (unpackR c) (unpackG c) (unpackB c) wf
    (State.inRange_eq_true.mpr ⟨alive, buf, lt⟩)
  refine ⟨t, u, set, get, valid, ok, ?_⟩
  rw [data, unscaled, scale_zero, scale_zero, scale_zero, pack_unpack]

/-- Settles O30: SETBRIGHT changes nothing GETPIX reads. -/
theorem brightnessIsNotRetroactive : Obligations.BrightnessIsNotRetroactive := by
  intro s level idx
  have keeps : ∃ t, exec (.setbright level) s = .next t ∧ t.alive = s.alive ∧ t.inRange idx = s.inRange idx ∧ t.buf = s.buf := by
    by_cases alive : s.alive = true
    · exact ⟨_, execSetbright_of_alive level alive, rfl, rfl, rfl⟩
    · exact ⟨_, execSetbright_of_dead level (Bool.eq_false_of_not_eq_true alive), rfl, rfl, rfl⟩
  obtain ⟨t, set, alive, range, buf⟩ := keeps
  obtain ⟨c, d, before, after⟩ := execGetpix_congr alive range buf
  exact ⟨t, _, _, set, before, after, rfl, rfl, rfl, rfl, buf⟩

/-- A white pixel set after SETBRIGHT reads back with 255 scaled by the level's factor in each channel. -/
theorem getpix_white_after_setbright {s : State} {idx : Idx} (wf : Memory.wf s.buf = true) (range : s.inRange idx = true)
    {level c : Byte} (scaled : scale 255 (storedFactor level) = c) :
    ∃ t u v, exec (.setbright level) s = .next t ∧ exec (.setpixRgb idx 255 255 255) t = .next u ∧
      exec (.getpix idx) u = .next v ∧ v.rspValid = true ∧ v.rspData = pack c c c := by
  obtain ⟨u, v, set, get, valid, -, data⟩ := getpix_after_setPixel
    (s := ({ s with bright := storedFactor level } : State).respond .ok 0) 255 255 255 wf range
  exact ⟨_, u, v, execSetbright_of_alive level (State.inRange_eq_true.mp range).1, set, get, valid, scaled ▸ data⟩

/-- Settles O31: level 0 stores the factor 1, which scales 255 to 0; level 255 stores the factor 0, which scales nothing. -/
theorem whitePixelAtBothLevels : Obligations.WhitePixelAtBothLevels := by
  intro s idx wf alive buf lt
  have range : s.inRange idx = true := State.inRange_eq_true.mpr ⟨alive, buf, lt⟩
  have off : scale 255 (storedFactor 0) = 0 := by decide
  have full : scale 255 (storedFactor 255) = 255 := scale_zero 255
  exact ⟨getpix_white_after_setbright wf range off, getpix_white_after_setbright wf range full⟩

end Sys2Proof.Machine
end

section
/-! PROOFS. One cycle of the transmitter: what each sequencer state does (O36, O38 to O42), which inputs a cycle samples (O12), and the
brightness factor that no cycle of a frame reads (O48). -/

namespace Sys2Proof.Machine

/-! ### The phase lengths (R140) -/

/-- Settles O36: the two lengths of each bit are positive and add up to the period. -/
theorem phasesFillTheBitPeriod : Obligations.PhasesFillTheBitPeriod := fun _ hp =>
  have ⟨_, lt, _⟩ := hp
  ⟨rfl, rfl, lt, fun b => ⟨th_pos hp b, tl_pos hp b, th_add_tl hp b⟩⟩

/-! ### What the sequencer answers in each state (R151 to R155, R158) -/

section
variable {s : State}

theorem State.stepsTo_of_sequencer {u : State} (rst : s.pins.rst = false) (busy : s.st ≠ .idle)
    (answers : sequencer s s.beginCycle = .next u) : s.StepsTo u :=
  State.stepsTo_of_next (by rw [step_of_busy rst busy, answers, mapNext_next])

theorem sequencer_wait_fails (wait : s.st = .wait) (fails : s.latchOk s.pins.nowUs = false) (s' : State) :
    sequencer s s' = .next s' := by
  simp [sequencer, wait, seqWait, fails]

/-- R159: an empty frame goes from WAIT to DONE. -/
theorem sequencer_emptyFrame (wait : s.st = .wait) (ok : s.latchOk s.pins.nowUs = true) (empty : s.nb = 0) (s' : State) :
    sequencer s s' = .next { s' with snapHi := s.lineHigh, snapLo := s.lineLow, st := .done } := by
  simp [sequencer, wait, seqWait, ok, empty]

/-- A phase or a gap goes on. -/
theorem sequencer_count (inFrame : s.inFrame) (cnt : s.cnt ≠ 0) (s' : State) :
    sequencer s s' = .next { s' with cnt := s.cnt - 1 } := by
  rcases inFrame with st | st | st
  · simp [sequencer, st, seqHigh, cnt]
  · simp [sequencer, st, seqLow, cnt]
  · simp [sequencer, st, seqGap, cnt]

/-- The next byte follows the last low phase of a byte at once, or a gap. -/
theorem sequencer_nextByte
    (st : s.st = .low ∧ s.bitIdx = 0 ∧ s.byteIdx.toNat + 1 < s.nb ∧ s.cfg.tByteGap = 0 ∨ s.st = .gap) (cnt : s.cnt = 0)
    (s' : State) : sequencer s s' = load (s.byteIdx.toNat + 1) s.snapHi s s' := by
  rcases st with ⟨st, bit, more, gap⟩ | st
  · simp [sequencer, st, seqLow, cnt, bit, more, gap]
  · simp [sequencer, st, seqGap, cnt]

theorem State.stepsTo_nextByte (rst : s.pins.rst = false) (alive : s.alive = true) (buf : s.bufOk = true)
    (more : s.byteIdx.toNat + 1 < s.nb) (st : s.st = .low ∧ s.bitIdx = 0 ∧ s.cfg.tByteGap = 0 ∨ s.st = .gap) (cnt : s.cnt = 0) :
    ∃ v, s.memRead (s.byteIdx.toNat + 1) = some v ∧
      s.StepsTo
        { s.beginCycle with
          curByte := v, byteIdx := s.byteIdx + 1, bitIdx := 7, port := s.snapHi,
          cnt := th s.cfg (v.getLsbD 7) - 1, st := .high } := by
  have byte : s.hasByte (s.byteIdx.toNat + 1) = true := State.hasByte_eq_true.mpr ⟨alive, buf, more⟩
  have busy : s.st ≠ .idle := by rcases st with ⟨st, -⟩ | st <;> simp [st]
  have next : s.byteIdx + 1 = BitVec.ofNat 18 (s.byteIdx.toNat + 1) := by simp [← BitVec.toNat_inj]
  refine ⟨_, State.memRead_of_hasByte byte, State.stepsTo_of_sequencer rst busy ?_⟩
  rw [sequencer_nextByte (st.imp_left fun ⟨st, bit, gap⟩ => ⟨st, bit, more, gap⟩) cnt, next]
  exact load_of_hasByte _ _ byte

/-- The DONE cycle. -/
theorem step_of_done (rst : s.pins.rst = false) (done : s.st = .done) :
    step s =
      .next
        (({ s.beginCycle with lastEnd := s.pins.nowUs, lastValid := true, st := .idle } : State).respond .ok 0).nextInputs := by
  rw [step_of_busy rst (by simp [done]), sequencer, done]
  rfl

end

/-- Settles O38: the latch test fails, or it holds on an empty strip, or byte 0 is there to load. -/
theorem waitCycle : Obligations.WaitCycle := by
  intro s rst wait alive buf S' hi lo
  have steps {u : State} : sequencer s s.beginCycle = .next u → s.StepsTo u := State.stepsTo_of_sequencer rst (by simp [wait])
  refine ⟨fun fails => ?_, fun ok empty => ?_, fun ok leds => ?_⟩
  · exact steps (sequencer_wait_fails wait fails _)
  · exact steps (sequencer_emptyFrame wait ok (by simp [State.nb, empty]) _)
  · have nonempty := State.nb_ne_zero leds
    have byte : s.hasByte 0 = true := State.hasByte_eq_true.mpr ⟨alive, buf, Nat.pos_of_ne_zero nonempty⟩
    refine ⟨_, State.memRead_of_hasByte byte, steps ?_⟩
    simp only [sequencer, wait, seqWait, ok, nonempty, if_true, if_false]
    exact load_of_hasByte _ _ byte

/-- Settles O39: the phase goes on, or the low level of the same bit begins. -/
theorem highCycle : Obligations.HighCycle := by
  intro s rst high S'
  have steps {u : State} : sequencer s s.beginCycle = .next u → s.StepsTo u := State.stepsTo_of_sequencer rst (by simp [high])
  refine ⟨fun cnt => ?_, fun cnt => ?_⟩
  · exact steps (sequencer_count (.inl high) cnt _)
  · refine steps ?_
    simp only [sequencer, high, seqHigh, cnt, ne_eq, not_true_eq_false, if_false]
    rfl

/-- Settles O40, branch by branch of `seqLow`. -/
theorem lowCycle : Obligations.LowCycle := by
  intro s rst low alive buf S' more
  have steps {u : State} : sequencer s s.beginCycle = .next u → s.StepsTo u := State.stepsTo_of_sequencer rst (by simp [low])
  refine ⟨fun cnt => ?_, fun cnt bit => ?_, fun cnt bit next gap => ?_, fun cnt bit next gap => ?_, fun cnt bit last => ?_⟩
  · exact steps (sequencer_count (.inr (.inl low)) cnt _)
  · have index : (s.bitIdx - 1).toNat = s.bitIdx.toNat - 1 := by bv_omega
    refine steps ?_
    simp only [sequencer, low, seqLow, cnt, bit, index, ne_eq, not_true_eq_false, not_false_eq_true, if_false, if_true]
    rfl
  · have next : s.byteIdx.toNat + 1 < s.nb := next
    refine steps ?_
    simp only [sequencer, low, seqLow, cnt, bit, next, gap, ne_eq, not_true_eq_false, if_false, if_true]
    rfl
  · exact State.stepsTo_nextByte rst alive buf next (.inl ⟨low, bit, gap⟩) cnt
  · have last : ¬s.byteIdx.toNat + 1 < s.nb := last
    refine steps ?_
    simp only [sequencer, low, seqLow, cnt, bit, last, ne_eq, not_true_eq_false, if_false]
    rfl

/-- R155: GAP is entered only where the byte gap is not 0. -/
theorem SeqCase.gap_pos {s t : State} (h : SeqCase s s.beginCycle t) (notGap : s.st ≠ .gap) (gap : t.st = .gap) :
    0 < s.cfg.tByteGap := by
  cases h with
  | toGap _ _ _ _ pos => exact pos
  | stay _ eq | count _ _ eq => rw [eq] at gap; exact absurd gap notGap
  | waitEmpty _ _ _ eq | waitLoad _ _ _ _ eq | fall _ _ eq | nextBit _ _ _ eq | nextByte _ _ _ eq | last _ _ _ _ eq
  | finish _ eq => simp [eq] at gap

/-- Settles O41: a gap goes on or the next byte follows it; commands and reset never lead to GAP. -/
theorem gapCycle : Obligations.GapCycle := by
  refine ⟨fun s rst gap alive buf more => ⟨fun cnt => ?_, fun cnt => ?_⟩, fun s t notGap noGap hs gap => ?_⟩
  · exact State.stepsTo_of_sequencer rst (by simp [gap]) (sequencer_count (.inr (.inr gap)) cnt _)
  · exact State.stepsTo_nextByte rst alive buf more (.inr gap) cnt
  · cases step_cases hs with
    | reset _ eq => simp [eq] at gap
    | command _ idle _ u he eq =>
      rw [eq, State.nextInputs_st] at gap
      cases exec_cases he with
      | showFrame _ _ _ eq => simp [eq] at gap
      | respond _ _ _ _ eq | construct _ _ _ _ _ eq | destroy _ _ eq | beginStrip _ _ eq | pixel _ _ _ _ _ _ eq
      | setbright _ _ _ eq => rw [eq] at gap; exact notGap gap
    | sequencer _ _ u hu eq =>
      have pos := (sequencer_cases hu).gap_pos notGap (by rw [← gap, eq, State.nextInputs_st])
      exact absurd noGap (Nat.ne_of_gt pos)

/-- Settles O42, by the DONE cycle's next state. -/
theorem doneCycle : Obligations.DoneCycle := fun _ rst done => State.stepsTo_of_next (step_of_done rst done)

/-! ### What a cycle does not read (R150, R149) -/

/-- The state with other input pins and another brightness factor. -/
def State.mapPinsBright (s : State) (p : Inputs → Inputs) (f : Byte → Byte) : State :=
  { s with pins := p s.pins, bright := f s.bright }

section
variable (p : Inputs → Inputs) (f : Byte → Byte)

/-- `LOAD` leaves the pins and the factor of `S'` as they are. -/
theorem load_mapPinsBright (k : Nat) (hi : PortWord) (s s' : State) :
    load k hi s (s'.mapPinsBright p f) = mapNext (·.mapPinsBright p f) (load k hi s s') := by
  unfold load
  cases s.memRead k <;> rfl

/-- The sequencer neither reads nor writes the pins and the factor of `S'`. -/
theorem sequencer_mapPinsBright (s s' : State) :
    sequencer s (s'.mapPinsBright p f) = mapNext (·.mapPinsBright p f) (sequencer s s') := by
  unfold sequencer
  cases s.st with
  | idle => rfl
  | wait =>
    unfold seqWait
    split_ifs
    · rfl
    · exact load_mapPinsBright p f _ _ s { s' with snapHi := s.lineHigh, snapLo := s.lineLow }
    · rfl
  | high =>
    unfold seqHigh
    split_ifs <;> rfl
  | low =>
    unfold seqLow
    split_ifs
    · rfl
    · rfl
    · rfl
    · exact load_mapPinsBright p f _ _ s s'
    · rfl
  | gap =>
    unfold seqGap
    split_ifs
    · rfl
    · exact load_mapPinsBright p f _ _ s s'
  | done => rfl

theorem needStrip_mapPinsBright {k : State → Result} {s : State}
    (hk : k (s.mapPinsBright p f) = mapNext (·.mapPinsBright p f) (k s)) :
    needStrip (s.mapPinsBright p f) k = mapNext (·.mapPinsBright p f) (needStrip s k) := by
  cases alive : s.alive
  · rw [needStrip_dead k alive, needStrip_dead k (s := s.mapPinsBright p f) alive]
    rfl
  · rw [needStrip_alive k alive, needStrip_alive k (s := s.mapPinsBright p f) alive, hk]

/-- R109: SHOW does not read the factor. -/
theorem execShow_mapPinsBright (s : State) :
    execShow (s.mapPinsBright p f) = mapNext (·.mapPinsBright p f) (execShow s) := by
  refine needStrip_mapPinsBright p f ?_
  have buf : (s.mapPinsBright p f).bufOk = s.bufOk := rfl
  rw [buf]
  cases s.bufOk <;> rfl

end

/-- R62: CONSTRUCT reads `alloc_grant` among its pins. -/
theorem execConstruct_mapPins {s : State} {p : Inputs → Inputs} (grant : (p s.pins).allocGrant = s.pins.allocGrant) (n : Idx)
    (pinid : Byte) :
    execConstruct n pinid (s.mapPinsBright p id) = mapNext (·.mapPinsBright p id) (execConstruct n pinid s) := by
  have allocates : (s.mapPinsBright p id).allocates n = s.allocates n :=
    congrArg (· && decide (3 * n.toNat ≤ s.cfg.bufCap)) grant
  have alive : (s.mapPinsBright p id).alive = s.alive := rfl
  unfold execConstruct
  rw [allocates, alive, apply_ite (mapNext (·.mapPinsBright p id)), apply_ite (mapNext (·.mapPinsBright p id))]
  rfl

/-- R37: of its pins a command reads `alloc_grant` alone, and of the commands CONSTRUCT alone reads it. -/
theorem exec_mapPins {i : Instr} {s : State} {p : Inputs → Inputs}
    (grant : (p s.pins).allocGrant = s.pins.allocGrant ∨ ∀ n q, i ≠ .construct n q) :
    exec i (s.mapPinsBright p id) = mapNext (·.mapPinsBright p id) (exec i s) := by
  have pixel (idx : Idx) (r g b : Byte) :
      setPixel idx r g b (s.mapPinsBright p id) = mapNext (·.mapPinsBright p id) (setPixel idx r g b s) := by
    rw [setPixel_eq, setPixel_eq, mapNext_next, apply_ite (State.mapPinsBright · p id), apply_ite (State.mapPinsBright · p id)]
    rfl
  cases i with
  | construct n q => exact execConstruct_mapPins (grant.resolve_right fun other => other n q rfl) n q
  | destroy | beginStrip | setbright | numpix =>
    simp only [exec, execDestroy, execBegin, execSetbright, execNumpix]
    exact needStrip_mapPinsBright p id rfl
  | showFrame => exact execShow_mapPinsBright p id s
  | setpixRgb idx r g b => exact pixel idx r g b
  | setpixPacked idx c => exact pixel idx _ _ _
  | getpix idx =>
    rw [exec, exec, execGetpix_eq, execGetpix_eq, mapNext_next, apply_ite (State.mapPinsBright · p id),
      apply_ite (State.mapPinsBright · p id)]
    rfl
  | color | reserved0x0 | reserved0xB | reserved0xC | reserved0xD | reserved0xE | reserved0xF => rfl

/-- R150: a cycle does the same with other pins that agree on `rst`, the external write, acceptance, and what is sampled. -/
theorem step_withPins {s : State} {q : Inputs} (rst : q.rst = s.pins.rst)
    (begins : ({ s with pins := q } : State).beginCycle = { s.beginCycle with pins := q })
    (accepts : ({ s with pins := q } : State).accepts = s.accepts)
    (command : s.accepts = true → q.cmdWord = s.pins.cmdWord ∧
      (q.allocGrant = s.pins.allocGrant ∨ ∀ n p, decode s.pins.cmdWord ≠ .construct n p))
    (seq : ∀ s', sequencer { s with pins := q } s' = sequencer s s') : step { s with pins := q } = step s := by
  have drop (o : Result) :
      mapNext State.nextInputs (mapNext (·.mapPinsBright (fun _ => q) id) o) = mapNext State.nextInputs o := by
    cases o <;> rfl
  cases hr : s.pins.rst
  · cases ha : s.accepts
    · rw [step_of_not_accepts hr ha, step_of_not_accepts (rst.trans hr) (accepts.trans ha), seq, begins,
        ← drop (sequencer s s.beginCycle), ← sequencer_mapPinsBright]
      rfl
    · obtain ⟨word, grant⟩ := command ha
      rw [step_of_accepts hr ha, step_of_accepts (rst.trans hr) (accepts.trans ha), begins,
        ← drop (exec _ s.beginCycle), ← exec_mapPins grant, ← word]
      rfl
  · rw [step_of_rst hr, step_of_rst (rst.trans hr)]
    rfl

/-- R190: the time is read in WAIT and DONE alone. -/
theorem sequencer_withNowUs {s : State} (notWait : s.st ≠ .wait) (notDone : s.st ≠ .done) (now : Time) (s' : State) :
    sequencer { s with pins := { s.pins with nowUs := now } } s' = sequencer s s' := by
  simp only [sequencer]
  cases st : s.st with
  | wait => exact absurd st notWait
  | done => exact absurd st notDone
  | idle | high | low | gap => rfl

/-- Settles O12: each clause changes inputs that the cycle's command and its sequencer state do not read. -/
theorem unsampledInputsDoNotMatter : Obligations.UnsampledInputsDoNotMatter := by
  refine ⟨fun s v w busy => ?_, fun s now notWait notDone => ?_, fun s g notConstruct => ?_⟩
  · have notAccepted (q : Inputs) : ({ s with pins := q } : State).accepts = false := State.accepts_of_busy busy
    refine step_withPins rfl rfl ((notAccepted _).trans (notAccepted s.pins).symm) (fun accepted => ?_) fun _ => rfl
    exact absurd (accepted.symm.trans (notAccepted s.pins)) (by simp)
  · exact step_withPins rfl rfl rfl (fun _ => ⟨rfl, .inl rfl⟩) (sequencer_withNowUs notWait notDone now)
  · refine step_withPins rfl rfl rfl (fun accepted => ⟨rfl, .inr ?_⟩) fun _ => rfl
    obtain ⟨idle, valid⟩ := State.accepts_eq_true.mp accepted
    simpa [idle, valid] using notConstruct

/-- Settles O48: in `SHOW` and in the sequencer the factor passes through. -/
theorem frameIgnoresBrightness : Obligations.FrameIgnoresBrightness := by
  intro s f rst showOrBusy
  have moves (o : Result) :
      mapNext State.nextInputs (mapNext (·.mapPinsBright id fun _ => f) o) =
        mapNext (fun t => { t with bright := f }) (mapNext State.nextInputs o) := by
    cases o <;> rfl
  by_cases idle : s.st = .idle
  · obtain ⟨valid, cmd⟩ := showOrBusy.resolve_left (not_not_intro idle)
    have accepts : s.accepts = true := State.accepts_eq_true.mpr ⟨idle, valid⟩
    rw [step_of_accepts rst accepts, step_of_accepts (s := { s with bright := f }) rst accepts, ← moves]
    simp only [cmd]
    exact congrArg _ (execShow_mapPinsBright id (fun _ => f) s.beginCycle)
  · rw [step_of_busy rst idle, step_of_busy (s := { s with bright := f }) rst idle, ← moves]
    exact congrArg _ (sequencer_mapPinsBright id (fun _ => f) s s.beginCycle)

end Sys2Proof.Machine
end

section
/-! PROOFS. Whole frames in time: when SHOW answers (O43), and the port and the line in every cycle of its frame (O44, O45). A run outside
DONE keeps the strip (`State.Reaches`); over a frame `State.cyclesLeft` falls by one in each cycle (`State.FrameRun`), so it says which
cycle of the frame a state is, and the sequencer registers say which phase of the waveform that cycle lies in. -/

namespace Sys2Proof.Machine

/-! ### The waveform (R147, R148) -/

/-- Cycle `c` of a frame lies in the high phase of one of its bits. -/
def State.inHighPhase (s : State) (c : Nat) : Prop :=
  ∃ j < 24 * s.numLeds.toNat, s.bitStart j ≤ c ∧ c < s.bitStart j + th s.cfg (s.bitstream j)

/-- The bit being sent, counted from the frame's first. -/
def State.bitNumber (s : State) : Nat := 8 * s.byteIdx.toNat + (7 - s.bitIdx.toNat)

theorem State.bitStart_mono (s : State) {i j : Nat} (le : i ≤ j) : s.bitStart i ≤ s.bitStart j :=
  Nat.add_le_add (Nat.mul_le_mul_right _ le) (Nat.mul_le_mul_right _ (Nat.div_le_div_right le))

theorem State.bitStart_succ (s : State) (j : Nat) :
    s.bitStart (j + 1) = s.bitStart j + s.cfg.tbit + if j % 8 = 7 then s.cfg.tByteGap else 0 := by
  unfold State.bitStart
  split
  · have byte : (j + 1) / 8 = j / 8 + 1 := by omega
    rw [byte]
    ring
  · have byte : (j + 1) / 8 = j / 8 := by omega
    rw [byte]
    ring

section
variable {s : State}

/-- No two bits overlap: a cycle before the next bit is in a high phase only if it is in that of the current bit. -/
theorem State.inHighPhase_iff (hp : s.cfg.Valid) {c j : Nat} (bit : j < 24 * s.numLeds.toNat) (start : s.bitStart j ≤ c)
    (stop : c < s.bitStart (j + 1)) : s.inHighPhase c ↔ c < s.bitStart j + th s.cfg (s.bitstream j) := by
  refine ⟨?_, fun high => ⟨j, bit, start, high⟩⟩
  rintro ⟨i, -, iStart, iHigh⟩
  have fits : th s.cfg (s.bitstream i) ≤ s.cfg.tbit := Nat.le.intro (th_add_tl hp _)
  rcases Nat.lt_trichotomy i j with lt | rfl | gt
  · have next := s.bitStart_mono (i := i + 1) lt
    have succ := s.bitStart_succ i
    omega
  · exact iHigh
  · have next := s.bitStart_mono (i := j + 1) gt
    omega

theorem State.bitNumber_byte (s : State) : s.bitNumber / 8 = s.byteIdx.toNat := by
  unfold State.bitNumber
  omega

theorem State.bitNumber_bit (s : State) : 7 - s.bitNumber % 8 = s.bitIdx.toNat := by
  have lt := s.bitIdx.isLt
  unfold State.bitNumber
  omega

/-- R157: the crit window is what lies before the current bit, its period, and what comes after it. -/
theorem State.bitStart_add_cyclesAfterBit (byte : s.byteIdx.toNat < s.nb) :
    s.bitStart s.bitNumber + s.cfg.tbit + s.cyclesAfterBit = s.frameCycles := by
  obtain ⟨e, he⟩ : ∃ e, s.nb = s.byteIdx.toNat + e + 1 := ⟨s.nb - s.byteIdx.toNat - 1, by omega⟩
  have bits : 24 * s.numLeds.toNat = s.bitNumber + 1 + s.bitIdx.toNat + 8 * e := by
    have lt := s.bitIdx.isLt
    have nb : s.nb = 3 * s.numLeds.toNat := rfl
    unfold State.bitNumber
    omega
  have gaps : s.nb - 1 = s.byteIdx.toNat + e := by omega
  rw [State.frameCycles, bits, ← State.nb, gaps, State.bitStart, State.cyclesAfterBit, s.bitNumber_byte, gaps,
    Nat.add_sub_cancel_left]
  ring

namespace State.Inv

/-- R147: the current bit is the bitstream's. -/
theorem bitstream_bitNumber (h : s.Inv) (inFrame : s.inFrame) : s.bitstream s.bitNumber = s.curBit := by
  rw [State.bitstream, s.bitNumber_byte, s.bitNumber_bit, ← (h.frameByte inFrame).2, State.curBit]

theorem bitNumber_lt (h : s.Inv) (inFrame : s.inFrame) : s.bitNumber < 24 * s.numLeds.toNat := by
  have byte := (h.frameByte inFrame).1
  have nb : s.nb = 3 * s.numLeds.toNat := rfl
  unfold State.bitNumber
  omega

/-- R148: in cycle `c` of a frame the sequencer is in HIGH exactly in the high phases of the waveform. -/
theorem high_iff_inHighPhase (h : s.Inv) (inFrame : s.inFrame) {c : Nat} (left : s.cyclesLeft + c = s.frameCycles) :
    s.st = .high ↔ s.inHighPhase c := by
  have window := State.bitStart_add_cyclesAfterBit (h.frameByte inFrame).1
  have period := th_add_tl h.params s.curBit
  have next := s.bitStart_succ s.bitNumber
  have phase := fun start stop => State.inHighPhase_iff h.params (h.bitNumber_lt inFrame) (c := c) start stop
  rw [h.bitstream_bitNumber inFrame] at phase
  rcases inFrame with st | st | st
  · have cnt := (h.highPhase st).1
    rw [State.cyclesLeft_high st] at left
    rw [phase (by omega) (by omega)]
    exact iff_of_true st (by omega)
  · have cnt := (h.lowPhase st).1
    rw [State.cyclesLeft_low st] at left
    rw [phase (by omega) (by omega)]
    exact iff_of_false (by simp [st]) (by omega)
  · obtain ⟨cnt, bit, more, -⟩ := h.gapPhase st
    have rest := State.cyclesAfterBit_more bit more
    have last : s.bitNumber % 8 = 7 := by simp [State.bitNumber, bit]
    rw [if_pos last] at next
    rw [State.cyclesLeft_gap st] at left
    rw [phase (by omega) (by omega)]
    exact iff_of_false (by simp [st]) (by omega)

end State.Inv

theorem State.crit_of_inFrame (inFrame : s.inFrame) : s.crit = true := by
  rcases inFrame with st | st | st <;> simp [State.crit, st]

end

/-! ### Runs outside DONE -/

/-- `n` cycles lead from `s` to `u`, with the same strip and the record of the same last frame. -/
structure State.Reaches (s : State) (n : Nat) (u : State) : Prop where
  run : runFor n s = .next u
  inv : u.Inv
  strip : u.SameStrip s
  cfg : u.cfg = s.cfg
  last : u.lastEnd = s.lastEnd ∧ u.lastValid = s.lastValid
  inputs : ∀ k, u.inputAt k = s.inputAt (n + k)

theorem State.SameStrip.trans {s t u : State} (h : u.SameStrip t) (h' : t.SameStrip s) : u.SameStrip s :=
  ⟨h.alive.trans h'.alive, h.numLeds.trans h'.numLeds, h.pin.trans h'.pin, h.bufOk.trans h'.bufOk, h.bright.trans h'.bright,
    h.dir.trans h'.dir, h.buf.trans h'.buf⟩

namespace State.Reaches
variable {s u v : State} {m n : Nat}

theorem refl (h : s.Inv) : s.Reaches 0 s :=
  ⟨runFor_zero s, h, ⟨rfl, rfl, rfl, rfl, rfl, rfl, rfl⟩, rfl, ⟨rfl, rfl⟩, fun k => by rw [Nat.zero_add]⟩

theorem trans (h : s.Reaches m u) (h' : u.Reaches n v) : s.Reaches (m + n) v where
  run := (runFor_add h.run).trans h'.run
  inv := h'.inv
  strip := h'.strip.trans h.strip
  cfg := h'.cfg.trans h.cfg
  last := ⟨h'.last.1.trans h.last.1, h'.last.2.trans h.last.2⟩
  inputs k := by rw [h'.inputs, h.inputs, Nat.add_assoc]

theorem pins (h : s.Reaches n u) : u.pins = s.inputAt n := h.inputs 0

theorem noReset (h : s.Reaches m u) (noReset : s.NoReset (m + n)) : u.NoReset n := fun k hk => by
  rw [h.inputs]
  exact noReset (m + k) (Nat.add_lt_add_left hk m)

theorem rst (h : s.Reaches m u) (noReset : s.NoReset n) (lt : m < n) : u.pins.rst = false := by
  rw [h.pins]
  exact noReset m lt

/-- R190: the latch test reads the parameters and the record of the last frame. -/
theorem latchOk (h : s.Reaches n u) (now : Time) : u.latchOk now = s.latchOk now := by
  rw [State.latchOk, State.latchOk, h.last.1, h.last.2, h.cfg]

theorem frameCycles (h : s.Reaches n u) : u.frameCycles = s.frameCycles := by
  rw [State.frameCycles, State.frameCycles, h.strip.numLeds, h.cfg]

theorem inHighPhase (h : s.Reaches n u) (c : Nat) : u.inHighPhase c ↔ s.inHighPhase c := by
  simp only [State.inHighPhase, State.bitStart, State.bitstream, h.strip.numLeds, h.strip.buf, h.cfg]

theorem of_step (h : s.Inv) (answers : step s = .next u.nextInputs) (strip : u.SameStrip s) (cfg : u.cfg = s.cfg)
    (last : u.lastEnd = s.lastEnd ∧ u.lastValid = s.lastValid) (inputs : u.future = s.future ∧ u.draws = s.draws) :
    s.Reaches 1 u.nextInputs where
  run := by rw [runFor_succ answers, runFor_zero]
  inv := h.of_step answers
  strip := { strip with }
  cfg := cfg
  last := last
  inputs k := by rw [State.inputAt_nextInputs, State.inputAt_succ_congr inputs.1 inputs.2, Nat.add_comm]

end State.Reaches

/-- One cycle of the sequencer, not in DONE. -/
theorem SeqCase.reaches {s u : State} (h : SeqCase s s.beginCycle u) (hs : s.Inv) (notDone : s.st ≠ .done)
    (answers : step s = .next u.nextInputs) : s.Reaches 1 u.nextInputs :=
  have ⟨inputs, cfg⟩ := h.keeps_inputs_cfg
  .of_step hs answers { h.sameStrip with } cfg (by_contra fun changed => notDone (h.done_of_last_changed changed)) inputs

/-! ### The cycles of a frame -/

/-- The port holds the level of the phase in every bit, from the snapshots (R146). -/
def State.OnSnapshot (s : State) : Prop := s.port = if s.st = .high then s.snapHi else s.snapLo

/-- Without an external write the port changes with the phase alone. -/
theorem SeqCase.onSnapshot {s t : State} (h : SeqCase s s.beginCycle t) (inFrame : s.inFrame) (on : s.OnSnapshot)
    (quiet : s.pins.extWrEn = false) : t.OnSnapshot := by
  have kept : s.extPort = if s.st = .high then s.snapHi else s.snapLo := (State.extPort_of_quiet quiet).trans on
  cases h with
  | stay st => rcases st with st | ⟨st, -⟩ <;> exact absurd inFrame (by simp [st])
  | waitEmpty st | waitLoad st | finish st => exact absurd inFrame (by simp [st])
  | count _ _ eq => subst eq; exact kept
  | fall _ _ eq | nextBit _ _ _ eq | nextByte _ _ _ eq => subst eq; rfl
  | toGap st _ _ _ _ eq | last st _ _ _ eq => subst eq; simpa [State.OnSnapshot, st] using kept

/-- `u` is `c` cycles after the cycle `v` of a frame, in the same frame or in its DONE cycle. -/
structure State.FrameRun (v : State) (c : Nat) (u : State) : Prop extends v.Reaches c u where
  frame : u.inFrame ∨ u.st = .done
  left : u.cyclesLeft + c = v.cyclesLeft
  snap : u.snapHi = v.snapHi ∧ u.snapLo = v.snapLo
  level : v.OnSnapshot → v.NoExtWrite c → u.OnSnapshot

namespace State.FrameRun
variable {u v : State} {c : Nat}

theorem inFrame (h : v.FrameRun c u) (lt : c < v.cyclesLeft) : u.inFrame :=
  h.frame.resolve_right fun done => by
    have left := h.left
    rw [State.cyclesLeft_done done] at left
    omega

/-- A frame's last cycle leads to DONE. -/
theorem done (h : v.FrameRun v.cyclesLeft u) : u.st = .done :=
  h.frame.resolve_left fun inFrame => by
    obtain ⟨t, seq, -⟩ := h.inv.seqCase_of_busy (State.busy_of_inFrame inFrame)
    have one := seq.cyclesLeft_succ h.inv inFrame
    have left := h.left
    omega

theorem succ (h : v.FrameRun c u) (inFrame : u.inFrame) (rst : u.pins.rst = false) : ∃ t, v.FrameRun (c + 1) t := by
  obtain ⟨t, seq, answers⟩ := h.inv.seqCase_of_busy (State.busy_of_inFrame inFrame)
  have notDone : u.st ≠ .done := fun done => absurd inFrame (by simp [done])
  obtain ⟨hi, lo⟩ := seq.keeps_snap inFrame
  have one : t.nextInputs.cyclesLeft + 1 = u.cyclesLeft := seq.cyclesLeft_succ h.inv inFrame
  refine ⟨t.nextInputs, { h.trans (seq.reaches h.inv notDone (answers rst)) with
    frame := seq.inFrame_or_done inFrame
    left := by rw [← h.left, ← one, Nat.add_right_comm, Nat.add_assoc]
    snap := ⟨hi.trans h.snap.1, lo.trans h.snap.2⟩
    level := fun on quiet => ?_ }⟩
  refine seq.onSnapshot inFrame (h.level on fun k hk => quiet k (Nat.lt_succ_of_lt hk)) ?_
  rw [h.pins]
  exact quiet c (Nat.lt_succ_self c)

end State.FrameRun

/-- R157: every cycle of a frame is reached, up to DONE. -/
theorem State.Inv.exists_frameRun {v : State} (h : v.Inv) (frame : v.inFrame ∨ v.st = .done) {c : Nat}
    (noReset : v.NoReset c) (le : c ≤ v.cyclesLeft) : ∃ u, v.FrameRun c u := by
  induction c with
  | zero => exact ⟨v, { State.Reaches.refl h with frame := frame, left := rfl, snap := ⟨rfl, rfl⟩, level := fun on _ => on }⟩
  | succ c ih =>
    obtain ⟨u, hu⟩ := ih (fun k hk => noReset k (Nat.lt_succ_of_lt hk)) (Nat.le_of_succ_le le)
    exact hu.succ (hu.inFrame le) (hu.rst noReset (Nat.lt_succ_self c))

/-! ### From WAIT to the frame -/

section
variable {s v : State}

/-- `v` is the first cycle of the frame that the WAIT cycle `s` starts. -/
structure State.StartsFrame (s v : State) : Prop extends s.Reaches 1 v where
  high : v.st = .high
  left : v.cyclesLeft = s.frameCycles
  snap : v.snapHi = s.lineHigh ∧ v.snapLo = s.lineLow
  port : v.port = s.lineHigh

namespace State.Inv

theorem startsFrame (h : s.Inv) (wait : s.st = .wait) (ok : s.latchOk s.pins.nowUs = true) (leds : s.numLeds ≠ 0)
    (rst : s.pins.rst = false) : ∃ v, s.StartsFrame v := by
  have hu := h.sequencer_startFrame wait ok leds s.beginCycle
  have answers := (step_of_busy rst (by simp [wait])).trans (by rw [hu, mapNext_next])
  exact ⟨_, { (sequencer_cases hu).reaches h (by simp [wait]) answers with
    high := rfl
    left := State.cyclesLeft_startFrame h.params leds rfl rfl rfl rfl
    snap := ⟨rfl, rfl⟩
    port := rfl }⟩

/-- The WAIT cycle in which the latch test holds leads to a frame of `frameCycles`, which are none for an empty strip. -/
theorem leavesWait (h : s.Inv) (wait : s.st = .wait) (ok : s.latchOk s.pins.nowUs = true) (rst : s.pins.rst = false) :
    ∃ v, s.Reaches 1 v ∧ (v.inFrame ∨ v.st = .done) ∧ v.cyclesLeft = s.frameCycles := by
  by_cases leds : s.numLeds = 0
  · have hu := sequencer_emptyFrame wait ok (by simp [State.nb, leds]) s.beginCycle
    have answers := (step_of_busy rst (by simp [wait])).trans (by rw [hu, mapNext_next])
    have noCycles : s.frameCycles = 0 := by simp [State.frameCycles, leds]
    exact ⟨_, (sequencer_cases hu).reaches h (by simp [wait]) answers, .inr rfl, noCycles.symm ▸ rfl⟩
  · obtain ⟨v, hv⟩ := h.startsFrame wait ok leds rst
    exact ⟨v, hv.toReaches, .inl (.inl hv.high), hv.left⟩

/-- R151: while the latch test fails WAIT goes on. -/
theorem staysInWait (h : s.Inv) (wait : s.st = .wait) (fails : s.latchOk s.pins.nowUs = false) (rst : s.pins.rst = false) :
    ∃ v, s.Reaches 1 v ∧ v.st = .wait := by
  have hu := sequencer_wait_fails wait fails s.beginCycle
  have answers := (step_of_busy rst (by simp [wait])).trans (by rw [hu, mapNext_next])
  exact ⟨_, (sequencer_cases hu).reaches h (by simp [wait]) answers, wait⟩

theorem waits (h : s.Inv) (wait : s.st = .wait) {n : Nat} (noReset : s.NoReset n)
    (fails : ∀ k < n, s.latchOk (s.inputAt k).nowUs = false) : ∃ u, s.Reaches n u ∧ u.st = .wait := by
  induction n with
  | zero => exact ⟨s, .refl h, wait⟩
  | succ n ih =>
    obtain ⟨u, hu, st⟩ := ih (fun k hk => noReset k (Nat.lt_succ_of_lt hk)) fun k hk => fails k (Nat.lt_succ_of_lt hk)
    have failsNow : u.latchOk u.pins.nowUs = false := by
      rw [hu.latchOk, hu.pins]
      exact fails n (Nat.lt_succ_self n)
    obtain ⟨v, hv, st'⟩ := hu.inv.staysInWait st failsNow (hu.rst noReset (Nat.lt_succ_self n))
    exact ⟨v, hu.trans hv, st'⟩

/-- R187: an accepted SHOW leads to the first WAIT cycle. -/
theorem acceptsShow (h : s.Inv) (idle : s.st = .idle) (valid : s.pins.cmdValid = true) (cmd : decode s.pins.cmdWord = .showFrame)
    (alive : s.alive = true) (buf : s.bufOk = true) (rst : s.pins.rst = false) : ∃ v, s.Reaches 1 v ∧ v.st = .wait := by
  have hu : exec .showFrame s.beginCycle = .next { s.beginCycle with st := .wait } := execShow_starts alive buf
  have answers : step s = .next ({ s.beginCycle with st := .wait } : State).nextInputs := by
    rw [step_of_accepts rst (State.accepts_eq_true.mpr ⟨idle, valid⟩), cmd, hu, mapNext_next]
  exact ⟨_, .of_step h answers ⟨rfl, rfl, rfl, rfl, rfl, rfl, rfl⟩ rfl ⟨rfl, rfl⟩ ⟨rfl, rfl⟩, rfl⟩

/-- SHOW's WAIT cycles, from its acceptance on. -/
theorem showWaits (h : s.Inv) (idle : s.st = .idle) (valid : s.pins.cmdValid = true) (cmd : decode s.pins.cmdWord = .showFrame)
    (alive : s.alive = true) (buf : s.bufOk = true) {n : Nat} (noReset : s.NoReset (n + 1))
    (fails : ∀ k < n, s.latchOk (s.inputAt (k + 1)).nowUs = false) : ∃ u, s.Reaches (n + 1) u ∧ u.st = .wait := by
  obtain ⟨v, hv, wait⟩ := h.acceptsShow idle valid cmd alive buf (noReset 0 (Nat.succ_pos n))
  rw [Nat.add_comm] at noReset ⊢
  obtain ⟨u, hu, st⟩ := hv.inv.waits wait (hv.noReset noReset) fun k hk => by
    rw [hv.latchOk, hv.inputs, Nat.add_comm]
    exact fails k hk
  exact ⟨u, hv.trans hu, st⟩

theorem noRsp_of_busy (h : s.Inv) (busy : s.st ≠ .idle) : s.rspValid = false :=
  Bool.eq_false_iff.mpr fun hv => busy (h.rspIdle hv)

end State.Inv

end

/-- Settles O43: one cycle of acceptance, the WAIT cycles, the frame, whose cycles left are its `frameCycles`, and DONE. -/
theorem showTimingFromAcceptance : Obligations.ShowTimingFromAcceptance := by
  intro s w h idle valid cmd alive buf noReset fails ok
  have waiting (k : Nat) (hk : k ≤ w) : ∃ u, s.Reaches (k + 1) u ∧ u.st = .wait :=
    h.showWaits idle valid cmd alive buf (fun i hi => noReset i (by omega)) fun i hi => fails i (by omega)
  obtain ⟨b, hb, bwait⟩ := waiting w (Nat.le_refl w)
  have leaves : b.latchOk b.pins.nowUs = true := by rw [hb.latchOk, hb.pins, ok]
  obtain ⟨v, hv, frame, left⟩ := hb.inv.leavesWait bwait leaves (hb.rst noReset (by omega))
  rw [hb.frameCycles] at left
  replace hv : s.Reaches (w + 2) v := hb.trans hv
  have run (c : Nat) (le : c ≤ s.frameCycles) : ∃ u, v.FrameRun c u :=
    hv.inv.exists_frameRun frame (hv.noReset fun k hk => noReset k (by omega)) (left ▸ le)
  obtain ⟨d, hd⟩ := left ▸ run _ (Nat.le_refl _)
  have done := hd.done
  rw [left] at hd
  replace hd := hv.trans hd.toReaches
  refine ⟨fun k pos le => ?_, fun c lt => ?_, ⟨d, hd.run, done, ?_, ?_⟩, ?_⟩
  · obtain ⟨u, hu, st⟩ := waiting (k - 1) (by omega)
    rw [Nat.sub_add_cancel pos] at hu
    exact ⟨u, hu.run, st, by simp [State.crit, st], hu.inv.noRsp_of_busy (by simp [st])⟩
  · obtain ⟨u, hu⟩ := run c (Nat.le_of_lt lt)
    have inFrame := hu.inFrame (left ▸ lt)
    exact ⟨u, (hv.trans hu.toReaches).run, State.crit_of_inFrame inFrame, hu.inv.noRsp_of_busy (State.busy_of_inFrame inFrame)⟩
  · simp [State.crit, done]
  · exact hd.inv.noRsp_of_busy (by simp [done])
  · have answers := step_of_done (hd.rst noReset (by omega)) done
    have last : runFor 1 d = _ := (runFor_succ answers).trans (runFor_zero _)
    refine ⟨_, (congrArg (runFor · s) (by omega)).trans ((runFor_add hd.run).trans last), rfl, rfl, rfl, rfl, rfl,
      congrArg Inputs.nowUs hd.pins, rfl, hd.strip.buf, hd.strip.alive.trans alive, hd.strip.bufOk.trans buf, hd.strip.numLeds,
      hd.strip.pin, hd.strip.bright, hd.strip.dir⟩

namespace State.StartsFrame
variable {s v u : State} {c : Nat}

/-- The levels of a frame's first cycle are the snapshots. -/
theorem onSnapshot (h : s.StartsFrame v) : v.OnSnapshot := by
  rw [State.OnSnapshot, if_pos h.high, h.port, h.snap.1]

theorem exists_frameRun (h : s.StartsFrame v) (noReset : s.NoReset (s.frameCycles + 1)) (le : c ≤ s.frameCycles) :
    ∃ u, v.FrameRun c u :=
  h.inv.exists_frameRun (.inl (.inl h.high)) (h.noReset fun k hk => noReset k (by omega)) (h.left ▸ le)

theorem run_succ (h : s.StartsFrame v) (hu : v.FrameRun c u) : runFor (c + 1) s = .next u :=
  Nat.add_comm 1 c ▸ (h.toReaches.trans hu.toReaches).run

/-- R148: HIGH in the waveform's high phases. -/
theorem high_iff_inHighPhase (h : s.StartsFrame v) (hu : v.FrameRun c u) (lt : c < s.frameCycles) :
    u.st = .high ↔ s.inHighPhase c := by
  have reaches := h.toReaches.trans hu.toReaches
  have left : u.cyclesLeft + c = u.frameCycles := by rw [hu.left, h.left, reaches.frameCycles]
  rw [hu.inv.high_iff_inHighPhase (hu.inFrame (h.left ▸ lt)) left, reaches.inHighPhase]

end State.StartsFrame

/-- Settles O44: without external writes the port has the level of the phase, and the phase is the waveform's. -/
theorem frameWaveformClosedForm : Obligations.FrameWaveformClosedForm := by
  intro s h wait ok leds noReset quiet hi lo inHigh
  obtain ⟨v, hv⟩ := h.startsFrame wait ok leds (noReset 0 (Nat.succ_pos _))
  have port (c : Nat) (le : c ≤ s.frameCycles) : ∃ u, v.FrameRun c u ∧ u.port = if u.st = .high then hi else lo := by
    obtain ⟨u, hu⟩ := hv.exists_frameRun noReset le
    have on : u.OnSnapshot := hu.level hv.onSnapshot fun k hk => by
      rw [hv.inputs]
      exact quiet (1 + k) (by omega) (by omega)
    rw [State.OnSnapshot, hu.snap.1, hu.snap.2, hv.snap.1, hv.snap.2] at on
    exact ⟨u, hu, on⟩
  refine ⟨fun c lt => ?_, ?_⟩
  · obtain ⟨u, hu, hport⟩ := port c (Nat.le_of_lt lt)
    have phase : u.st = .high ↔ inHigh c := hv.high_iff_inHighPhase hu lt
    exact ⟨u, hv.run_succ hu, fun high => hport.trans (if_pos (phase.mpr high)), fun low => hport.trans (if_neg (mt phase.mp low))⟩
  · obtain ⟨u, hu, hport⟩ := port _ (Nat.le_refl _)
    have done : u.st = .done := (hv.left ▸ hu : v.FrameRun v.cyclesLeft u).done
    exact ⟨u, hv.run_succ hu, done, by simpa [done] using hport⟩

/-- Settles O45: a driven line is high exactly in HIGH, which no external write changes, and the phase is the waveform's. -/
theorem lineWaveformSurvivesExternalWrites : Obligations.LineWaveformSurvivesExternalWrites := by
  intro s h wait ok leds noReset inHigh c lt
  obtain ⟨v, hv⟩ := h.startsFrame wait ok leds (noReset 0 (Nat.succ_pos _))
  obtain ⟨u, hu⟩ := hv.exists_frameRun noReset (Nat.le_of_lt lt)
  have phase : u.st = .high ↔ inHigh c := hv.high_iff_inHighPhase hu lt
  have dir : u.dir = s.dir := hu.strip.dir.trans hv.strip.dir
  have driven (out : s.dir = .output) : u.dout = if u.st = .high then .one else .zero :=
    drivenLineIsHighOnlyInHighPhase u hu.inv (dir.trans out)
  refine ⟨u, hv.run_succ hu, fun undriven => ?_, fun out high => ?_, fun out low => ?_⟩
  · simp [State.dout, dir, undriven]
  · rw [driven out, if_pos (phase.mpr high)]
  · rw [driven out, if_neg (mt phase.mp low)]

end Sys2Proof.Machine
end

section
/-! PROOFS. The strip's lifecycle and the latch (O15 to O18, O34, O37, O47, O49). A cycle without reset and without an accepted DESTROY
keeps the strip, and outside DONE also the record of its last frame; `keeps_of_run` carries such facts over runs of any length. -/

namespace Sys2Proof.Machine

/-! ### The latch test (R190) -/

theorem State.latchOk_iff (s : State) (now : Time) :
    s.latchOk now = true ↔ s.lastValid = false ∨ s.cfg.latchUs ≤ (now.toNat + 2 ^ 32 - s.lastEnd.toNat) % 2 ^ 32 := by
  have difference : (now - s.lastEnd).toNat = (now.toNat + 2 ^ 32 - s.lastEnd.toNat) % 2 ^ 32 := by
    have bound := s.lastEnd.isLt
    rw [BitVec.toNat_sub]
    congr 1
    omega
  rw [State.latchOk, difference, Bool.or_eq_true, Bool.not_eq_true', decide_eq_true_eq]

/-- Settles O37. -/
theorem latchTestIsWrapSafe : Obligations.LatchTestIsWrapSafe := fun s now => s.latchOk_iff now

/-! ### What the lifecycle commands answer, case by case (R181, R183, R185, R187) -/

section
variable {s : State}

/-- BEGIN and DESTROY write the pin's bit of the port alone. -/
theorem State.clearPinBit_port_getLsbD (s : State) {k : Nat} (hk : k < 8) :
    s.clearPinBit.port.getLsbD k = if k = s.pin.toNat then false else s.port.getLsbD k := by
  rw [State.clearPinBit_port, BitVec.getLsbD_and, BitVec.getLsbD_not]
  by_cases pin : k = s.pin.toNat
  · rw [if_pos pin, pin, s.pmask_getLsbD_pin]
    simp
  · have clear : s.pmask.getLsbD k = false := by simpa [Ne.symm pin] using s.pmask_getLsbD hk
    rw [if_neg pin, clear]
    simp [hk]

theorem execConstruct_of_alive (n : Idx) (pinid : Byte) (alive : s.alive = true) :
    execConstruct n pinid s = .next (s.respond .already 0) := if_pos alive

theorem execConstruct_of_illegal_pin (n : Idx) {pinid : Byte} (dead : s.alive = false) (illegal : 8 ≤ pinid.toNat) :
    execConstruct n pinid s = .next (s.respond .illegal 0) := by
  rw [execConstruct, if_neg (by simp [dead])]
  exact if_pos illegal

/-- The state a CONSTRUCT that makes a strip answers with. -/
def State.constructed (s : State) (n : Idx) (pinid : Byte) : State :=
  ({ s with
    alive := true, numLeds := n, pin := pinid.extractLsb' 0 3, bufOk := s.allocates n,
    buf := if s.allocates n then s.buf.clearBelow (3 * n.toNat) else s.buf,
    bright := 0, lastEnd := 0, lastValid := false } : State).respond .ok 0

theorem execConstruct_of_legal_pin (n : Idx) {pinid : Byte} (dead : s.alive = false) (legal : pinid.toNat < 8) :
    execConstruct n pinid s = .next (s.constructed n pinid) := by
  rw [execConstruct, if_neg (by simp [dead])]
  exact if_neg (Nat.not_le.mpr legal)

theorem State.constructed_read (s : State) (n : Idx) (pinid : Byte) (a : Nat) :
    (s.constructed n pinid).buf.read a = if s.allocates n = true ∧ a < 3 * n.toNat then 0 else s.buf.read a := by
  rw [State.constructed, State.respond_buf]
  by_cases grant : s.allocates n = true <;> simp [grant, Memory.read_clearBelow]

theorem State.constructed_memRead {n : Idx} (pinid : Byte) {a : Nat} (grant : s.allocates n = true) (lt : a < 3 * n.toNat) :
    (s.constructed n pinid).memRead a = some 0 := by
  have byte : (s.constructed n pinid).hasByte a = true := State.hasByte_eq_true.mpr ⟨rfl, grant, lt⟩
  rw [State.memRead_of_hasByte byte, State.constructed_read, if_pos ⟨grant, lt⟩]

theorem State.allocates_eq_true (s : State) (n : Idx) :
    s.allocates n = true ↔ s.pins.allocGrant = true ∧ 3 * n.toNat ≤ s.cfg.bufCap := by
  simp [State.allocates]

theorem execDestroy_of_dead (dead : s.alive = false) : execDestroy s = .next (s.respond .noStrip 0) := needStrip_dead _ dead

theorem execDestroy_of_alive (alive : s.alive = true) :
    execDestroy s = .next (({ s.clearPinBit with dir := .input, alive := false, bufOk := false } : State).respond .ok 0) :=
  needStrip_alive _ alive

theorem execBegin_of_dead (dead : s.alive = false) : execBegin s = .next (s.respond .noStrip 0) := needStrip_dead _ dead

theorem execBegin_of_alive (alive : s.alive = true) :
    execBegin s = .next (({ s.clearPinBit with dir := .output } : State).respond .ok 0) := needStrip_alive _ alive

theorem execShow_of_dead (dead : s.alive = false) : execShow s = .next (s.respond .noStrip 0) := needStrip_dead _ dead

theorem execShow_of_no_buffer (alive : s.alive = true) (noBuf : s.bufOk = false) : execShow s = .next (s.respond .ok 0) := by
  rw [execShow, needStrip_alive _ alive, if_neg (by simp [noBuf])]
  rfl

end

/-- Settles O15: the checks in their order, then the new strip, whose bytes the zero fill reaches. -/
theorem constructMakesStrip : Obligations.ConstructMakesStrip := by
  intro s n pinid
  refine ⟨fun alive => execConstruct_of_alive n pinid alive, fun dead illegal => execConstruct_of_illegal_pin n dead illegal,
    fun dead legal => ⟨s.constructed n pinid, execConstruct_of_legal_pin n dead legal, rfl, s.allocates_eq_true n,
      fun grant a lt => State.constructed_memRead pinid grant lt, fun a out => ?_⟩⟩
  rw [State.constructed_read]
  exact if_neg out

/-- Settles O16: without `alive` the line is not driven and no byte can be read. -/
theorem destroyReleasesStrip : Obligations.DestroyReleasesStrip := fun s =>
  ⟨execDestroy_of_dead, fun alive =>
    ⟨_, execDestroy_of_alive alive, rfl, fun _ hk => s.clearPinBit_port_getLsbD hk, rfl, fun _ => rfl⟩⟩

/-- Settles O17: the line shows the pin's bit, which was cleared. -/
theorem beginDrivesLineLow : Obligations.BeginDrivesLineLow := by
  refine fun s => ⟨execBegin_of_dead, fun alive =>
    ⟨_, execBegin_of_alive alive, rfl, fun _ hk => s.clearPinBit_port_getLsbD hk, ?_, fun _ => rfl⟩⟩
  simp [State.dout, alive, s.pmask_getLsbD_pin]

/-- Settles O18. -/
theorem showStartsWaitOrDoesNothing : Obligations.ShowStartsWaitOrDoesNothing := fun _ =>
  ⟨execShow_of_dead, execShow_of_no_buffer, execShow_starts⟩

/-! ### The state diagram (R188) -/

/-- Of the commands only a SHOW that starts a frame moves the sequencer. -/
theorem ExecCase.st_cases {i : Instr} {s t : State} (h : ExecCase i s t) :
    t.st = s.st ∨ t.st = .wait ∧ i = .showFrame ∧ s.alive = true ∧ s.bufOk = true := by
  cases h with
  | showFrame instr alive buf eq => exact .inr ⟨congrArg State.st eq, instr, alive, buf⟩
  | respond _ _ _ _ eq | construct _ _ _ _ _ eq | destroy _ _ eq | beginStrip _ _ eq | pixel _ _ _ _ _ _ eq
  | setbright _ _ _ eq => subst eq; exact .inl rfl

/-- Settles O47: the command's effect on `st` in IDLE, the sequencer's cases otherwise. -/
theorem sequencerFollowsTheDiagram : Obligations.SequencerFollowsTheDiagram := by
  intro s t rst hs
  cases step_cases hs with
  | reset rst' => simp [rst] at rst'
  | command _ idle valid u he eq =>
    rw [eq, State.nextInputs_st, idle]
    obtain same | ⟨wait, cmd, alive, buf⟩ := (exec_cases he).st_cases
    · exact .inl (same.trans idle)
    · exact .inr ⟨wait, valid, cmd, alive, buf⟩
  | sequencer _ _ u hu eq =>
    rw [eq, State.nextInputs_st]
    cases sequencer_cases hu with
    | stay st eq => rcases st with st | ⟨st, -⟩ <;> simp [eq, st]
    | count st _ eq => rcases st with st | st | st <;> simp [eq, st]
    | nextByte st _ _ eq => rcases st with ⟨st, -⟩ | st <;> simp [eq, st]
    | toGap st _ _ _ gap eq => simp [eq, st, gap]
    | waitEmpty st _ _ eq | waitLoad st _ _ _ eq | fall st _ eq | nextBit st _ _ eq | last st _ _ _ eq | finish st eq =>
      simp [eq, st]

/-! ### Runs on one strip (R182) -/

/-- DESTROY is accepted in this cycle, reset aside. -/
abbrev State.AcceptsDestroy (s : State) : Prop :=
  s.st = .idle ∧ s.pins.cmdValid = true ∧ decode s.pins.cmdWord = .destroy

/-- The strip of `s` still stands in `t`. -/
structure State.StripOf (t s : State) : Prop where
  alive : t.alive = true
  numLeds : t.numLeds = s.numLeds
  pin : t.pin = s.pin

theorem State.StripOf.trans {s t u : State} (h : u.StripOf t) (h' : t.StripOf s) : u.StripOf s :=
  ⟨h.alive, h.numLeds.trans h'.numLeds, h.pin.trans h'.pin⟩

namespace ExecCase
variable {i : Instr} {s t : State}

/-- A strip is ended by DESTROY alone; CONSTRUCT leaves it and the record of its last frame as they are. -/
theorem keeps_strip (h : ExecCase i s t) (alive : s.alive = true) (notDestroy : i ≠ .destroy) :
    t.StripOf s ∧ t.lastEnd = s.lastEnd ∧ t.lastValid = s.lastValid := by
  cases h with
  | construct _ _ _ dead => simp [alive] at dead
  | destroy instr => exact absurd instr notDestroy
  | respond _ _ _ _ eq | beginStrip _ _ eq | showFrame _ _ _ eq | pixel _ _ _ _ _ _ eq | setbright _ _ _ eq =>
    subst eq; exact ⟨⟨alive, rfl, rfl⟩, rfl, rfl⟩

theorem keeps_inputs_cfg (h : ExecCase i s t) : (t.future = s.future ∧ t.draws = s.draws) ∧ t.cfg = s.cfg := by
  cases h with
  | respond _ _ _ _ eq | construct _ _ _ _ _ eq | destroy _ _ eq | beginStrip _ _ eq | showFrame _ _ _ eq
  | pixel _ _ _ _ _ _ eq | setbright _ _ _ eq => subst eq; exact ⟨⟨rfl, rfl⟩, rfl⟩

end ExecCase

section
variable {s t : State}

/-- Outside DONE, where the record of the last frame is written, a cycle without reset and DESTROY keeps that too. -/
theorem step_keeps_strip (hs : step s = .next t) (rst : s.pins.rst = false) (alive : s.alive = true)
    (notDestroy : ¬s.AcceptsDestroy) :
    t.StripOf s ∧ (s.st ≠ .done → t.lastEnd = s.lastEnd ∧ t.lastValid = s.lastValid) := by
  cases step_cases hs with
  | reset rst' => simp [rst] at rst'
  | command _ idle valid u he eq =>
    subst eq
    obtain ⟨strip, last⟩ := (exec_cases he).keeps_strip alive fun cmd => notDestroy ⟨idle, valid, cmd⟩
    exact ⟨{ strip with }, fun _ => last⟩
  | sequencer _ _ u hu eq =>
    subst eq
    have hu := sequencer_cases hu
    have same := hu.sameStrip
    exact ⟨⟨same.alive.trans alive, same.numLeds, same.pin⟩, fun notDone =>
      by_contra fun changed => notDone (hu.done_of_last_changed changed)⟩

/-- Every cycle moves the inputs on, whatever it does, and leaves the parameters. -/
theorem step_keeps_inputs_cfg (hs : step s = .next t) : (∀ k, t.inputAt k = s.inputAt (k + 1)) ∧ t.cfg = s.cfg := by
  cases step_cases hs with
  | reset _ eq =>
    subst eq
    exact ⟨fun k => (State.inputAt_nextInputs _ k).trans (State.inputAt_succ_congr rfl rfl k), rfl⟩
  | command _ _ _ u he eq =>
    subst eq
    obtain ⟨⟨future, draws⟩, cfg⟩ := (exec_cases he).keeps_inputs_cfg
    exact ⟨fun k => (u.inputAt_nextInputs k).trans (State.inputAt_succ_congr future draws k), cfg⟩
  | sequencer _ _ u hu eq =>
    subst eq
    have hu := sequencer_cases hu
    exact ⟨hu.inputAt_nextInputs, hu.keeps_inputs_cfg.2⟩

theorem State.NoReset.of_step {n : Nat} (noReset : s.NoReset (n + 1)) (hs : step s = .next t) : t.NoReset n := fun k hk => by
  rw [(step_keeps_inputs_cfg hs).1]
  exact noReset (k + 1) (Nat.succ_lt_succ hk)

theorem State.NoReset.of_run {m n : Nat} (noReset : s.NoReset (n + m)) (run : runFor n s = .next t) : t.NoReset m := by
  induction n generalizing s with
  | zero =>
    injection run with eq
    rwa [Nat.zero_add, eq] at noReset
  | succ n ih =>
    obtain ⟨u, hs, hu⟩ := runFor_succ_eq_next run
    rw [Nat.add_right_comm] at noReset
    exact ih (noReset.of_step hs) hu

/-- What every cycle of a run without reset keeps holds at its end. -/
theorem keeps_of_run {P : State → Prop} {n : Nat} (run : runFor n s = .next t) (noReset : s.NoReset n)
    (cycle : ∀ k < n, ∀ u v, runFor k s = .next u → u.pins.rst = false → step u = .next v → P u → P v) (start : P s) : P t := by
  induction n generalizing s with
  | zero =>
    injection run with eq
    exact eq ▸ start
  | succ n ih =>
    obtain ⟨u, hs, hu⟩ := runFor_succ_eq_next run
    have first : P u := cycle 0 n.succ_pos s u (runFor_zero s) (noReset 0 n.succ_pos) hs start
    exact ih hu (noReset.of_step hs)
      (fun k hk v w hv => cycle (k + 1) (Nat.succ_lt_succ hk) v w ((runFor_succ hs).trans hv)) first

end

/-- Settles O34: every cycle of the run keeps the strip. -/
theorem ledCountAndPinAreImmutable : Obligations.LedCountAndPinAreImmutable := by
  intro n s t alive noReset notDestroy run
  have kept : t.StripOf s := keeps_of_run (P := (State.StripOf · s)) run noReset
    (fun k hk u _ hu rst hs strip => (step_keeps_strip hs rst strip.alive (notDestroy k hk u hu)).1.trans strip)
    ⟨alive, rfl, rfl⟩
  exact ⟨kept.alive, kept.numLeds, kept.pin⟩

/-! ### From one frame to the next (R191) -/

/-- In `t` a strip stands whose last frame ended in the DONE cycle `s`. -/
structure State.AfterFrame (t s : State) : Prop where
  alive : t.alive = true
  cfg : t.cfg = s.cfg
  lastEnd : t.lastEnd = s.pins.nowUs
  lastValid : t.lastValid = true

section
variable {s t u : State}

theorem State.afterFrame_of_done (hs : step s = .next t) (rst : s.pins.rst = false) (done : s.st = .done) (alive : s.alive = true) :
    t.AfterFrame s := by
  rw [step_of_done rst done] at hs
  injection hs with eq
  subst eq
  exact ⟨alive, rfl, rfl, rfl⟩

theorem State.AfterFrame.of_step (h : t.AfterFrame s) (ht : step t = .next u) (rst : t.pins.rst = false)
    (quiet : t.st ≠ .done ∧ ¬t.AcceptsDestroy) : u.AfterFrame s := by
  obtain ⟨notDone, notDestroy⟩ := quiet
  obtain ⟨strip, last⟩ := step_keeps_strip ht rst h.alive notDestroy
  obtain ⟨lastEnd, lastValid⟩ := last notDone
  exact ⟨strip.alive, (step_keeps_inputs_cfg ht).2.trans h.cfg, lastEnd.trans h.lastEnd, lastValid.trans h.lastValid⟩

/-- The latch test counts from that DONE cycle. -/
theorem State.AfterFrame.latchOk_iff (h : t.AfterFrame s) (now : Time) :
    t.latchOk now = true ↔ s.cfg.latchUs ≤ (now.toNat + 2 ^ 32 - s.pins.nowUs.toNat) % 2 ^ 32 := by
  simp only [State.latchOk_iff, h.lastValid, h.lastEnd, h.cfg, Bool.true_eq_false, false_or]

/-- R151: WAIT is left only when the latch test holds, and for the first high phase unless the frame is empty. -/
theorem latchOk_of_leaves_wait (hs : step s = .next t) (rst : s.pins.rst = false) (wait : s.st = .wait) (leaves : t.st ≠ .wait) :
    s.latchOk s.pins.nowUs = true ∧ (s.numLeds ≠ 0 → t.st = .high) := by
  have busy : s.st ≠ .idle := by simp [wait]
  rw [step_of_busy rst busy, mapNext_eq_next] at hs
  obtain ⟨u, hu, rfl⟩ := hs
  cases sequencer_cases hu with
  | waitEmpty _ ok nb => exact ⟨ok, fun leds => absurd nb (State.nb_ne_zero leds)⟩
  | waitLoad _ ok _ _ eq => exact ⟨ok, fun _ => congrArg State.st eq⟩
  | stay _ eq => exact absurd ((congrArg State.st eq).trans wait) leaves
  | count st => simp [State.inFrame, wait] at st
  | fall st | nextBit st | toGap st | nextByte st | last st | finish st => simp [wait] at st

end

/-- Settles O49: the DONE cycle records `T1`, every cycle up to `t` keeps that record, and so the latch test that `t` passes is against
`T1`. -/
theorem secondFrameWaitsForTheLatch : Obligations.SecondFrameWaitsForTheLatch := by
  intro n s t u alive done noReset quiet run wait ht leaves
  have rst : t.pins.rst = false := (noReset.of_run (m := 1) run) 0 Nat.one_pos
  obtain ⟨v, hv, hrun⟩ := runFor_succ_eq_next run
  have recorded : v.AfterFrame s := State.afterFrame_of_done hv (noReset 0 (by omega)) done alive
  have kept : t.AfterFrame s := keeps_of_run (P := (State.AfterFrame · s)) hrun
    (fun k hk => (noReset.of_step hv) k (by omega))
    (fun k hk w _ hw rst hs h =>
      h.of_step hs rst (quiet (k + 1) (by omega) (by omega) w ((runFor_succ hv).trans hw)))
    recorded
  obtain ⟨ok, high⟩ := latchOk_of_leaves_wait ht rst wait leaves
  exact ⟨(kept.latchOk_iff _).mp ok, high⟩

end Sys2Proof.Machine
end

section
/-! PROOFS. Responses and errors (O26, O27), and runs of any length (O10). Every command answers, with the code of the first check that
matches; the sequencer loads bytes of the strip alone; so every cycle of a block that meets the invariant has a next state. -/

namespace Sys2Proof.Machine

/-! ### The code of a response (R210 to R213) -/

/-- There is a next state, and a response in it has the code `c`. -/
def Answers (o : Result) (c : RspCode) : Prop := ∃ t, o = .next t ∧ (t.rspValid = true → t.rspCode = c)

theorem Answers.respond (s : State) (c : RspCode) (d : Packed) : Answers (.next (s.respond c d)) c := ⟨_, rfl, fun _ => rfl⟩

section
variable {s : State}

/-- R212: without a strip NO_STRIP, with one OK. -/
theorem Answers.of_strip {o : Result} (dead : s.alive = false → o = .next (s.respond .noStrip 0))
    (alive : s.alive = true → Answers o .ok) : Answers o (if s.alive then .ok else .noStrip) := by
  by_cases strip : s.alive = true
  · rw [if_pos strip]
    exact alive strip
  · rw [if_neg strip, dead (by simpa using strip)]
    exact .respond ..

theorem execConstruct_answers (n : Idx) (pinid : Byte) :
    Answers (execConstruct n pinid s) (if s.alive then .already else if 8 ≤ pinid.toNat then .illegal else .ok) := by
  by_cases alive : s.alive = true
  · rw [execConstruct_of_alive n pinid alive, if_pos alive]
    exact .respond ..
  · have dead : s.alive = false := by simpa using alive
    rw [if_neg alive]
    by_cases illegal : 8 ≤ pinid.toNat
    · rw [execConstruct_of_illegal_pin n dead illegal, if_pos illegal]
      exact .respond ..
    · rw [execConstruct_of_legal_pin n dead (Nat.lt_of_not_le illegal), if_neg illegal]
      exact .respond ..

/-- A SHOW that starts a frame leaves the strobe as it was. -/
theorem execShow_answers (clear : s.rspValid = false) : Answers (execShow s) (if s.alive then .ok else .noStrip) := by
  refine .of_strip execShow_of_dead fun alive => ?_
  cases buf : s.bufOk with
  | false => exact ⟨_, execShow_of_no_buffer alive buf, fun _ => rfl⟩
  | true => exact ⟨_, execShow_starts alive buf, fun strobe => by simp [clear] at strobe⟩

theorem setPixel_answers (idx : Idx) (r g b : Byte) :
    Answers (setPixel idx r g b s) (if s.alive then .ok else .noStrip) := by
  rw [setPixel_eq]
  split_ifs <;> exact .respond ..

theorem execGetpix_answers (idx : Idx) : Answers (execGetpix idx s) (if s.alive then .ok else .noStrip) := by
  rw [execGetpix_eq]
  split_ifs <;> exact .respond ..

/-- The code of a command's response, beside whether there is one (R39). -/
theorem Answers.responds_of_exec {i : Instr} {c : RspCode} (clear : s.rspValid = false) (h : Answers (exec i s) c) :
    ∃ t, exec i s = .next t ∧ (t.rspValid = false ↔ i = .showFrame ∧ s.alive = true ∧ s.bufOk = true) ∧
      (t.rspValid = true → t.rspCode = c) := by
  obtain ⟨t, ht, code⟩ := h
  refine ⟨t, ht, ?_, code⟩
  rw [← Bool.not_eq_true, exec_rspValid_iff ht clear, not_not]

end

/-- Settles O27: whether a command responds is `exec_rspValid_iff`; its code is a matter of one command each. -/
theorem firstMatchingCheckDecidesTheCode : Obligations.FirstMatchingCheckDecidesTheCode := by
  intro i s clear
  refine Answers.responds_of_exec clear ?_
  cases i with
  | construct n pinid => exact execConstruct_answers n pinid
  | showFrame => exact execShow_answers clear
  | setpixRgb idx r g b => exact setPixel_answers idx r g b
  | setpixPacked idx packed => exact setPixel_answers idx _ _ _
  | getpix idx => exact execGetpix_answers idx
  | destroy => exact .of_strip execDestroy_of_dead fun alive => ⟨_, execDestroy_of_alive alive, fun _ => rfl⟩
  | beginStrip => exact .of_strip execBegin_of_dead fun alive => ⟨_, execBegin_of_alive alive, fun _ => rfl⟩
  | setbright level =>
    exact .of_strip (execSetbright_of_dead level) fun alive => ⟨_, execSetbright_of_alive level alive, fun _ => rfl⟩
  | numpix => exact .of_strip execNumpix_of_dead fun alive => ⟨_, execNumpix_of_alive alive, fun _ => rfl⟩
  | color | reserved0x0 | reserved0xB | reserved0xC | reserved0xD | reserved0xE | reserved0xF => exact .respond ..

/-- Settles O26: of the cases of `exec_cases` only the plain response can carry an error code. -/
theorem errorsChangeNothingElse : Obligations.ErrorsChangeNothingElse := by
  intro i s t clear ht strobe code
  cases exec_cases ht with
  | respond c d err _ eq =>
    subst eq
    obtain rfl : d = 0 := err code
    rfl
  | showFrame _ _ _ eq => simp [eq, clear] at strobe
  | construct _ _ _ _ _ eq | destroy _ _ eq | beginStrip _ _ eq | pixel _ _ _ _ _ _ eq | setbright _ _ _ eq =>
    exact absurd (congrArg State.rspCode eq) code

/-! ### Runs of any length (R215, R60) -/

/-- No cycle stops the block: reset and every command have a next state, and the sequencer never faults. -/
theorem State.Inv.step_next {s : State} (h : s.Inv) : ∃ t, step s = .next t := by
  cases rst : s.pins.rst with
  | true => exact ⟨_, step_of_rst rst⟩
  | false =>
    cases accepts : s.accepts with
    | true =>
      obtain ⟨u, hu, -⟩ := firstMatchingCheckDecidesTheCode (decode s.pins.cmdWord) s.beginCycle s.beginCycle_rspValid
      exact ⟨_, by rw [step_of_accepts rst accepts, hu, mapNext_next]⟩
    | false =>
      obtain ⟨u, hu⟩ := h.sequencer_next s.beginCycle
      exact ⟨_, by rw [step_of_not_accepts rst accepts, hu, mapNext_next]⟩

/-- Settles O10, by induction on the number of cycles: each has a next state, which meets the invariant again. -/
theorem runsNeverStop : Obligations.RunsNeverStop := by
  intro s n h
  induction n generalizing s with
  | zero => exact ⟨s, runFor_zero s, h⟩
  | succ n ih =>
    obtain ⟨u, hu⟩ := h.step_next
    rw [runFor_succ hu]
    exact ih u (h.of_step hu)

end Sys2Proof.Machine
end

section
/-! PROOFS. Reset and hazards (O7, O50, O51, O53). A WAIT cycle whose latch test fails writes the port alone; and until a DONE cycle records
the end of a frame, no cycle of a new strip makes the latch test fail. -/

namespace Sys2Proof.Machine

/-! ### Reset (R240) -/

/-- Settles O7: the registers are those of `ResetState`, and the outputs follow from IDLE without a strip. -/
theorem resetFromAnyCycle : Obligations.ResetFromAnyCycle := by
  intro s rst
  refine ⟨s.resetCycle, step_of_rst rst, ?_⟩
  have outputs : s.resetCycle.cmdReady = true ∧ s.resetCycle.busy = false ∧ s.resetCycle.crit = false ∧ s.resetCycle.dout = .z := by
    simp [State.busy, State.cmdReady, State.crit, State.dout]
  simpa using outputs

/-! ### WAIT while the latch test fails (R220, R249) -/

/-- The two states hold the same registers but the port; the inputs, now and to come, are left open. -/
def State.SameButPort (t s : State) : Prop := t = { s with port := t.port, pins := t.pins, future := t.future, draws := t.draws }

namespace State.SameButPort
variable {s t u : State}

theorem trans (h : u.SameButPort t) (h' : t.SameButPort s) : u.SameButPort s := by
  rw [State.SameButPort, h'] at h
  exact h

theorem of_beginCycle (clear : s.rspValid = false) : s.beginCycle.nextInputs.SameButPort s := by
  rw [State.SameButPort, clear]
  rfl

end State.SameButPort

theorem step_of_wait_fails {s : State} (rst : s.pins.rst = false) (wait : s.st = .wait) (fails : s.latchOk s.pins.nowUs = false) :
    step s = .next s.beginCycle.nextInputs := by
  rw [step_of_busy rst (by simp [wait]), sequencer_wait_fails wait fails, mapNext_next]

/-- Settles O50, by induction on the number of cycles: each leaves `st`, the response and the latch test as they were. -/
theorem waitLastsWhileLatchFails : Obligations.WaitLastsWhileLatchFails := by
  intro n
  induction n with
  | zero => exact fun s _ _ _ _ => ⟨s, runFor_zero s, rfl, rfl⟩
  | succ n ih =>
    intro s wait clear noReset fails
    have first : step s = .next s.beginCycle.nextInputs := step_of_wait_fails (noReset 0 n.succ_pos) wait (fails 0 n.succ_pos)
    have inputs := (step_keeps_inputs_cfg first).1
    obtain ⟨t, run, same, pins⟩ := ih s.beginCycle.nextInputs wait rfl (noReset.of_step first) fun k hk => by
      rw [inputs]
      exact fails (k + 1) (Nat.succ_lt_succ hk)
    exact ⟨t, (runFor_succ first).trans run, State.SameButPort.trans same (.of_beginCycle clear), pins.trans (inputs n)⟩

/-! ### A new strip's first frame (R187, R190, R253) -/

section
variable {s t : State}

/-- R29, R190: the latch test holds until the end of a frame was recorded. -/
theorem State.latchOk_of_unsent (unsent : s.lastValid = false) (now : Time) : s.latchOk now = true :=
  (s.latchOk_iff now).mpr (.inl unsent)

theorem step_of_construct (rst : s.pins.rst = false) (idle : s.st = .idle) (valid : s.pins.cmdValid = true) {n : Idx} {pinid : Byte}
    (cmd : decode s.pins.cmdWord = .construct n pinid) (dead : s.alive = false) (legal : pinid.toNat < 8) :
    step s = .next (s.beginCycle.constructed n pinid).nextInputs := by
  have answers : exec (.construct n pinid) s.beginCycle = .next (s.beginCycle.constructed n pinid) :=
    execConstruct_of_legal_pin n dead legal
  rw [step_of_accepts rst (State.accepts_eq_true.mpr ⟨idle, valid⟩), cmd, answers, mapNext_next]

/-- No command records the end of a frame. -/
theorem ExecCase.keeps_unsent {i : Instr} (h : ExecCase i s t) (unsent : s.lastValid = false) : t.lastValid = false := by
  cases h with
  | construct _ _ _ _ _ eq => rw [eq]; rfl
  | respond _ _ _ _ eq | destroy _ _ eq | beginStrip _ _ eq | showFrame _ _ _ eq | pixel _ _ _ _ _ _ eq | setbright _ _ _ eq =>
    rw [eq]; exact unsent

/-- R29: the end of a frame is recorded in DONE alone; reset and CONSTRUCT clear the record. -/
theorem step_keeps_unsent (hs : step s = .next t) (notDone : s.st ≠ .done) (unsent : s.lastValid = false) : t.lastValid = false := by
  cases step_cases hs with
  | reset _ eq => rw [eq, State.resetCycle_lastValid]
  | command _ _ _ u he eq =>
    rw [eq, State.nextInputs_lastValid]
    exact (exec_cases he).keeps_unsent unsent
  | sequencer _ _ u hu eq =>
    rw [eq, State.nextInputs_lastValid]
    by_contra recorded
    have changed : u.lastValid ≠ s.lastValid := by rwa [unsent]
    exact notDone ((sequencer_cases hu).done_of_last_changed fun same => changed same.2)

theorem runFor_keeps_unsent {n : Nat} (run : runFor n s = .next t) (notDone : ∀ k < n, ∀ v, runFor k s = .next v → v.st ≠ .done)
    (unsent : s.lastValid = false) : t.lastValid = false := by
  induction n generalizing s with
  | zero =>
    injection run with eq
    exact eq ▸ unsent
  | succ n ih =>
    obtain ⟨u, hs, hu⟩ := runFor_succ_eq_next run
    have first : u.lastValid = false := step_keeps_unsent hs (notDone 0 n.succ_pos s (runFor_zero s)) unsent
    exact ih hu (fun k hk v hv => notDone (k + 1) (Nat.succ_lt_succ hk) v ((runFor_succ hs).trans hv)) first

theorem State.Inv.of_run {n : Nat} (h : s.Inv) (run : runFor n s = .next t) : t.Inv := by
  obtain ⟨u, hu, inv⟩ := runsNeverStop s n h
  rw [run] at hu
  injection hu with eq
  exact eq ▸ inv

/-- R151: where a WAIT cycle leads when the latch test holds. -/
theorem State.Inv.step_leaves_wait (h : s.Inv) (rst : s.pins.rst = false) (wait : s.st = .wait)
    (ok : s.latchOk s.pins.nowUs = true) : ∃ u, step s = .next u ∧ u.st = if s.numLeds = 0 then .done else .high := by
  have busy : s.st ≠ .idle := by simp [wait]
  obtain ⟨-, empty, frame⟩ := waitCycle s rst wait (h.alive_of_busy busy) (h.busyBuf busy)
  by_cases leds : s.numLeds = 0
  · obtain ⟨u, hu, same⟩ := empty ok leds
    exact ⟨u, hu, by rw [if_pos leds, same]⟩
  · obtain ⟨_, _, u, hu, same⟩ := frame ok leds
    exact ⟨u, hu, by rw [if_neg leds, same]⟩

end

/-- Settles O51: a new strip has no frame on record. -/
theorem freshStripDoesNotWait : Obligations.FreshStripDoesNotWait := fun _ n _ now dead legal =>
  ⟨_, execConstruct_of_legal_pin n dead legal, State.latchOk_of_unsent rfl now⟩

/-- Settles O53: CONSTRUCT clears the record of a frame, no cycle up to `t` makes one, and so the latch test of `t` holds. -/
theorem firstShowLeavesWaitAtOnce : Obligations.FirstShowLeavesWaitAtOnce := by
  intro n s t c pinid h rst idle valid cmd dead legal notDone run wait rst'
  have first := step_of_construct rst idle valid cmd dead legal
  have unsent : t.lastValid = false :=
    runFor_keeps_unsent ((runFor_succ first).symm.trans run)
      (fun k hk v hv => notDone (k + 1) (by omega) (by omega) v ((runFor_succ first).trans hv)) rfl
  exact (h.of_run run).step_leaves_wait rst' wait (State.latchOk_of_unsent unsent _)

end Sys2Proof.Machine
end
